-- ==== Sys2Proof/Word.lean ====
section
/-! DEFINITION. The word types of the core (00_scope.md R10, R15, R17): bytes, 16-bit words, and the three narrower
fields of an instruction word. -/

namespace Sys2Proof

/-- A register V[x], a memory cell, a timer, an immediate NN: 8 bits (R10). -/
abbrev Byte := BitVec 8

/-- An instruction word, I, pc, a stack entry: 16 bits (R10). -/
abbrev Word := BitVec 16

/-- A register index, the field X or Y: 4 bits (R17). -/
abbrev Reg := BitVec 4

/-- The field N: 4 bits (R17). -/
abbrev Nibble := BitVec 4

/-- The field NNN: a 12-bit address (R17). -/
abbrev Addr := BitVec 12

/-- A key vector, bit k set when key k is pressed: 16 bits (10_state.md R38). -/
abbrev Keys := BitVec 16

end Sys2Proof
end

