-- ==== Sys2Proof/Config.lean ====
section
/-! DEFINITION. The parameters of this hardware: the fixed ones (00_scope.md R10, R11), the configuration record of the
quirk toggles (R12) with the font (20_memory.md R56), and the free values the host supplies when a run does not say
which (10_state.md R38, R39). -/

namespace Sys2Proof

/-- ADDR_POLICY (00_scope.md R12): what an address above 0xFFF does. -/
inductive AddrPolicy where
  /-- It raises MemoryAccessOutOfRange (the default). -/
  | check
  /-- Every byte address is taken mod 4096. -/
  | mask
deriving DecidableEq, Repr

/-- The configuration record of 00_scope.md R12, with the font parameter of 20_memory.md R56.
The defaults are those of R12; the default font is `Machine.standardFont`. -/
structure Config where
  addrPolicy : AddrPolicy := .check
  /-- LOADSTORE_INCREMENTS_I: FX55 and FX65 set I to I + X + 1. -/
  loadstoreIncrementsI : Bool := false
  /-- SHIFT_USES_VY: 8XY6 and 8XYE shift V[Y] into V[X]. -/
  shiftUsesVy : Bool := false
  /-- LOGIC_RESETS_VF: 8XY1, 8XY2 and 8XY3 write VF to 0. -/
  logicResetsVf : Bool := false
  /-- JUMP_USES_VX: BNNN adds V[X], X = NNN[11:8], not V0. -/
  jumpUsesVx : Bool := false
  /-- SPRITE_H_CLIP: sprite pixels past column 63 are clipped, not wrapped. -/
  spriteHClip : Bool := false
  /-- FONT: 16 glyphs of 5 bytes at address 0x000. -/
  font : Vector Byte 80
deriving DecidableEq, Repr

namespace Config

/-- MEM_SIZE (R10). -/
abbrev memSize : Nat := 4096
/-- PROGRAM_START (R10): where the image is loaded and where pc starts. -/
abbrev programStart : Nat := 0x200
/-- MAX_IMAGE (R10): 4096 - 0x200 bytes. -/
abbrev maxImage : Nat := 3584
/-- STACK_DEPTH (R10). -/
abbrev stackDepth : Nat := 16
/-- SCREEN_W (R10). -/
abbrev screenW : Nat := 64
/-- SCREEN_H (R10). -/
abbrev screenH : Nat := 32
/-- FONT_BASE (R11): the value the spec takes (D5). -/
abbrev fontBase : Nat := 0

/-- FREE VALUE: the key vector of the n-th `step` that no pending transaction gives (10_state.md R38; log 2). -/
opaque freeKeys : Nat → Keys
/-- FREE VALUE: the random byte of the n-th `step` that no pending transaction gives (10_state.md R39; log 2). -/
opaque freeRnd : Nat → Byte

end Config

end Sys2Proof
end

