-- ==== Sys2Proof/WellFormed.lean ====
section
/-! DEFINITION. What is checked of a term before the machine meets it. The operand bounds of 30_encoding.md R71 are in
the operands' types, so every term of `Instr` is well formed; what can be ill formed is a WORD (it must match a row of
the opcode table, R73, R75) and an IMAGE (it must fit, 70_reset_and_hazards.md R250). -/

namespace Sys2Proof

/-- A row of the opcode table (30_encoding.md R73): a word w is of this row when w AND mask = value. -/
structure OpRow where
  mnemonic : String
  mask : Word
  value : Word
deriving DecidableEq, Repr

/-- `w` matches the row (R73). -/
def OpRow.hits (r : OpRow) (w : Word) : Bool := w &&& r.mask == r.value

/-- The rows of families 0 to 7 (R73). -/
def opcodeRowsLow : List OpRow := [
  ⟨"CLS", 0xFFFF, 0x00E0⟩,
  ⟨"RET", 0xFFFF, 0x00EE⟩,
  ⟨"JP_addr", 0xF000, 0x1000⟩,
  ⟨"CALL_addr", 0xF000, 0x2000⟩,
  ⟨"SE_Vx__byte", 0xF000, 0x3000⟩,
  ⟨"SNE_Vx__byte", 0xF000, 0x4000⟩,
  ⟨"SE_Vx__Vy", 0xF00F, 0x5000⟩,
  ⟨"LD_Vx__byte", 0xF000, 0x6000⟩,
  ⟨"ADD_Vx__byte", 0xF000, 0x7000⟩]

/-- The rows of families 8 to D (R73). -/
def opcodeRowsMid : List OpRow := [
  ⟨"LD_Vx__Vy", 0xF00F, 0x8000⟩,
  ⟨"OR_Vx__Vy", 0xF00F, 0x8001⟩,
  ⟨"AND_Vx__Vy", 0xF00F, 0x8002⟩,
  ⟨"XOR_Vx__Vy", 0xF00F, 0x8003⟩,
  ⟨"ADD_Vx__Vy", 0xF00F, 0x8004⟩,
  ⟨"SUB_Vx__Vy", 0xF00F, 0x8005⟩,
  ⟨"SHR_Vx____Vy", 0xF00F, 0x8006⟩,
  ⟨"SUBN_Vx__Vy", 0xF00F, 0x8007⟩,
  ⟨"SHL_Vx____Vy", 0xF00F, 0x800E⟩,
  ⟨"SNE_Vx__Vy", 0xF00F, 0x9000⟩,
  ⟨"LD_I__addr", 0xF000, 0xA000⟩,
  ⟨"JP_V0__addr", 0xF000, 0xB000⟩,
  ⟨"RND_Vx__byte", 0xF000, 0xC000⟩,
  ⟨"DRW_Vx__Vy__nibble", 0xF000, 0xD000⟩]

/-- The rows of families E and F (R73). -/
def opcodeRowsHigh : List OpRow := [
  ⟨"SKP_Vx", 0xF0FF, 0xE09E⟩,
  ⟨"SKNP_Vx", 0xF0FF, 0xE0A1⟩,
  ⟨"LD_Vx__DT", 0xF0FF, 0xF007⟩,
  ⟨"LD_Vx__K", 0xF0FF, 0xF00A⟩,
  ⟨"LD_DT__Vx", 0xF0FF, 0xF015⟩,
  ⟨"LD_ST__Vx", 0xF0FF, 0xF018⟩,
  ⟨"ADD_I__Vx", 0xF0FF, 0xF01E⟩,
  ⟨"LD_F__Vx", 0xF0FF, 0xF029⟩,
  ⟨"LD_B__Vx", 0xF0FF, 0xF033⟩,
  ⟨"LD__I___Vx", 0xF0FF, 0xF055⟩,
  ⟨"LD_Vx___I", 0xF0FF, 0xF065⟩]

/-- The opcode table: 34 rows (R73). -/
def opcodeTable : List OpRow := opcodeRowsLow ++ opcodeRowsMid ++ opcodeRowsHigh

/-- A word is legal when it matches a row (R75). -/
def legalWord (w : Word) : Bool := opcodeTable.any (·.hits w)

/-- An image fits when it has at most 4096 - 0x200 bytes (R250). -/
def imageFits (image : List Byte) : Bool := decide (image.length ≤ Config.maxImage)

/-- The mnemonic of an instruction's row of the opcode table. -/
def Instr.mnemonic : Instr → String
  | .cls => "CLS"
  | .ret => "RET"
  | .jp _ => "JP_addr"
  | .call _ => "CALL_addr"
  | .seImm _ _ => "SE_Vx__byte"
  | .sneImm _ _ => "SNE_Vx__byte"
  | .seReg _ _ => "SE_Vx__Vy"
  | .ldImm _ _ => "LD_Vx__byte"
  | .addImm _ _ => "ADD_Vx__byte"
  | .ldReg _ _ => "LD_Vx__Vy"
  | .orReg _ _ => "OR_Vx__Vy"
  | .andReg _ _ => "AND_Vx__Vy"
  | .xorReg _ _ => "XOR_Vx__Vy"
  | .addReg _ _ => "ADD_Vx__Vy"
  | .sub _ _ => "SUB_Vx__Vy"
  | .shr _ _ => "SHR_Vx____Vy"
  | .subn _ _ => "SUBN_Vx__Vy"
  | .shl _ _ => "SHL_Vx____Vy"
  | .sneReg _ _ => "SNE_Vx__Vy"
  | .ldI _ => "LD_I__addr"
  | .jpV0 _ => "JP_V0__addr"
  | .rnd _ _ => "RND_Vx__byte"
  | .drw _ _ _ => "DRW_Vx__Vy__nibble"
  | .skp _ => "SKP_Vx"
  | .sknp _ => "SKNP_Vx"
  | .ldVxDt _ => "LD_Vx__DT"
  | .ldVxK _ => "LD_Vx__K"
  | .ldDtVx _ => "LD_DT__Vx"
  | .ldStVx _ => "LD_ST__Vx"
  | .addI _ => "ADD_I__Vx"
  | .ldF _ => "LD_F__Vx"
  | .ldB _ => "LD_B__Vx"
  | .ldStore _ => "LD__I___Vx"
  | .ldLoad _ => "LD_Vx___I"

end Sys2Proof
end

