-- ==== Sys2Proof/Decode.lean ====
section
/-! DEFINITION. The decoder of 30_encoding.md R74, total on the 65536 words and rejecting by name (R75), and the encoder
written from the same table (R71, R73). -/

namespace Sys2Proof

/-- Why a word is illegal: the rows of the table of R75, and a fetch of fewer than two bytes. -/
inductive Illegal where
  /-- 0x0000 to 0x0FFF except 00E0 and 00EE (the historical machine-code call). -/
  | machineCode
  /-- 5XYN with N != 0. -/
  | family5
  /-- 8XYN with N in 8, 9, A, B, C, D, F. -/
  | family8
  /-- 9XYN with N != 0. -/
  | family9
  /-- EXNN with NN not in 9E, A1. -/
  | familyE
  /-- FXNN with NN in no row. -/
  | familyF
  /-- Fewer than two bytes were given. -/
  | truncated
deriving DecidableEq, Repr

/-- What the decoder answers: an instruction, or `invalid` with its reason (R74). -/
inductive Decoded where
  | instr (i : Instr)
  | invalid (why : Illegal)
deriving DecidableEq, Repr

/-! ### Fields (R71) -/

/-- w[15:12], the family. -/
def family (w : Word) : BitVec 4 := w.extractLsb' 12 4
/-- X = w[11:8]. -/
def fieldX (w : Word) : Reg := w.extractLsb' 8 4
/-- Y = w[7:4]. -/
def fieldY (w : Word) : Reg := w.extractLsb' 4 4
/-- N = w[3:0]. -/
def fieldN (w : Word) : Nibble := w.extractLsb' 0 4
/-- NN = w[7:0]. -/
def fieldNN (w : Word) : Byte := w.extractLsb' 0 8
/-- NNN = w[11:0]. -/
def fieldNNN (w : Word) : Addr := w.extractLsb' 0 12

/-- The word whose high byte is `hi` and low byte `lo`: instructions are big-endian (R70, 20_memory.md R52). -/
def wordOfBytes (hi lo : Byte) : Word := hi ++ lo
/-- The high byte of a word, the one at the lower address (R70). -/
def highByte (w : Word) : Byte := w.extractLsb' 8 8
/-- The low byte of a word, the one at the higher address (R70). -/
def lowByte (w : Word) : Byte := w.extractLsb' 0 8

/-! ### Decoding (R74) -/

/-- Family 0: two words only. -/
def decode0 (w : Word) : Decoded :=
  if w = 0x00E0 then .instr .cls else if w = 0x00EE then .instr .ret else .invalid .machineCode

/-- Family 8: the low nibble selects the operation. -/
def decode8 (w : Word) : Decoded :=
  match (fieldN w).toNat with
  | 0x0 => .instr (.ldReg (fieldX w) (fieldY w))
  | 0x1 => .instr (.orReg (fieldX w) (fieldY w))
  | 0x2 => .instr (.andReg (fieldX w) (fieldY w))
  | 0x3 => .instr (.xorReg (fieldX w) (fieldY w))
  | 0x4 => .instr (.addReg (fieldX w) (fieldY w))
  | 0x5 => .instr (.sub (fieldX w) (fieldY w))
  | 0x6 => .instr (.shr (fieldX w) (fieldY w))
  | 0x7 => .instr (.subn (fieldX w) (fieldY w))
  | 0xE => .instr (.shl (fieldX w) (fieldY w))
  | _ => .invalid .family8

/-- Family E: the low byte selects the key skip. -/
def decodeE (w : Word) : Decoded :=
  match (fieldNN w).toNat with
  | 0x9E => .instr (.skp (fieldX w))
  | 0xA1 => .instr (.sknp (fieldX w))
  | _ => .invalid .familyE

/-- Family F: the low byte selects the operation. -/
def decodeF (w : Word) : Decoded :=
  match (fieldNN w).toNat with
  | 0x07 => .instr (.ldVxDt (fieldX w))
  | 0x0A => .instr (.ldVxK (fieldX w))
  | 0x15 => .instr (.ldDtVx (fieldX w))
  | 0x18 => .instr (.ldStVx (fieldX w))
  | 0x1E => .instr (.addI (fieldX w))
  | 0x29 => .instr (.ldF (fieldX w))
  | 0x33 => .instr (.ldB (fieldX w))
  | 0x55 => .instr (.ldStore (fieldX w))
  | 0x65 => .instr (.ldLoad (fieldX w))
  | _ => .invalid .familyF

/-- The decoder: the case split of R74 on the family nibble. -/
def decode (w : Word) : Decoded :=
  match (family w).toNat with
  | 0x0 => decode0 w
  | 0x1 => .instr (.jp (fieldNNN w))
  | 0x2 => .instr (.call (fieldNNN w))
  | 0x3 => .instr (.seImm (fieldX w) (fieldNN w))
  | 0x4 => .instr (.sneImm (fieldX w) (fieldNN w))
  | 0x5 => if fieldN w = 0 then .instr (.seReg (fieldX w) (fieldY w)) else .invalid .family5
  | 0x6 => .instr (.ldImm (fieldX w) (fieldNN w))
  | 0x7 => .instr (.addImm (fieldX w) (fieldNN w))
  | 0x8 => decode8 w
  | 0x9 => if fieldN w = 0 then .instr (.sneReg (fieldX w) (fieldY w)) else .invalid .family9
  | 0xA => .instr (.ldI (fieldNNN w))
  | 0xB => .instr (.jpV0 (fieldNNN w))
  | 0xC => .instr (.rnd (fieldX w) (fieldNN w))
  | 0xD => .instr (.drw (fieldX w) (fieldY w) (fieldN w))
  | 0xE => decodeE w
  | _ => decodeF w

/-- Decoding from bytes in fetch order (R70); the bytes past the second are the next instruction's. -/
def decodeBytes : List Byte → Decoded
  | hi :: lo :: _ => decode (wordOfBytes hi lo)
  | _ => .invalid .truncated

/-- The instruction, where there is one. -/
def Decoded.toInstr? : Decoded → Option Instr
  | .instr i => some i
  | .invalid _ => none

/-- The decoder on an instruction's bits as spec/opcode_table.json numbers them: the table's rows are 16 bits, one word,
stored high byte first. -/
def decodeTableWord (nbits w : Nat) : Option Instr :=
  let word : Word := BitVec.ofNat 16 (w % 2 ^ nbits)
  (decodeBytes [highByte word, lowByte word]).toInstr?

/-! ### Encoding (R71, R73) -/

/-- A word of the forms 3XNN, 4XNN, 6XNN, 7XNN, CXNN, EXNN, FXNN. -/
def wordXNN (fam : BitVec 4) (x : Reg) (nn : Byte) : Word := fam ++ x ++ nn
/-- A word of the forms 5XY0, 8XYN, 9XY0, DXYN. -/
def wordXYN (fam : BitVec 4) (x y : Reg) (n : Nibble) : Word := fam ++ x ++ y ++ n
/-- A word of the forms 1NNN, 2NNN, ANNN, BNNN. -/
def wordNNN (fam : BitVec 4) (nnn : Addr) : Word := fam ++ nnn

/-- The word of an instruction (R73). -/
def encode : Instr → Word
  | .cls => 0x00E0
  | .ret => 0x00EE
  | .jp nnn => wordNNN 0x1 nnn
  | .call nnn => wordNNN 0x2 nnn
  | .seImm x nn => wordXNN 0x3 x nn
  | .sneImm x nn => wordXNN 0x4 x nn
  | .seReg x y => wordXYN 0x5 x y 0x0
  | .ldImm x nn => wordXNN 0x6 x nn
  | .addImm x nn => wordXNN 0x7 x nn
  | .ldReg x y => wordXYN 0x8 x y 0x0
  | .orReg x y => wordXYN 0x8 x y 0x1
  | .andReg x y => wordXYN 0x8 x y 0x2
  | .xorReg x y => wordXYN 0x8 x y 0x3
  | .addReg x y => wordXYN 0x8 x y 0x4
  | .sub x y => wordXYN 0x8 x y 0x5
  | .shr x y => wordXYN 0x8 x y 0x6
  | .subn x y => wordXYN 0x8 x y 0x7
  | .shl x y => wordXYN 0x8 x y 0xE
  | .sneReg x y => wordXYN 0x9 x y 0x0
  | .ldI nnn => wordNNN 0xA nnn
  | .jpV0 nnn => wordNNN 0xB nnn
  | .rnd x nn => wordXNN 0xC x nn
  | .drw x y n => wordXYN 0xD x y n
  | .skp x => wordXNN 0xE x 0x9E
  | .sknp x => wordXNN 0xE x 0xA1
  | .ldVxDt x => wordXNN 0xF x 0x07
  | .ldVxK x => wordXNN 0xF x 0x0A
  | .ldDtVx x => wordXNN 0xF x 0x15
  | .ldStVx x => wordXNN 0xF x 0x18
  | .addI x => wordXNN 0xF x 0x1E
  | .ldF x => wordXNN 0xF x 0x29
  | .ldB x => wordXNN 0xF x 0x33
  | .ldStore x => wordXNN 0xF x 0x55
  | .ldLoad x => wordXNN 0xF x 0x65

/-- The bytes of an instruction as memory holds them: high byte first (R70). -/
def encodeBytes (i : Instr) : List Byte := [highByte (encode i), lowByte (encode i)]

end Sys2Proof
end

