-- ==== Sys2Proof/Machine/Font.lean ====
section
/-! DEFINITION. The font (20_memory.md R56), the default configuration (00_scope.md R12), and what memory holds where the
machine has nothing listed: the contents that `initialize` leaves outside the image (R55, R57). -/

namespace Sys2Proof.Machine

/-- FONT, the default font: 16 glyphs of 5 bytes, glyph k at 5k (R56; log 10). -/
def standardFont : Vector Byte 80 := #v[
  0xF0, 0x90, 0x90, 0x90, 0xF0,
  0x20, 0x60, 0x20, 0x20, 0x70,
  0xF0, 0x10, 0xF0, 0x80, 0xF0,
  0xF0, 0x10, 0xF0, 0x10, 0xF0,
  0x90, 0x90, 0xF0, 0x10, 0x10,
  0xF0, 0x80, 0xF0, 0x10, 0xF0,
  0xF0, 0x80, 0xF0, 0x90, 0xF0,
  0xF0, 0x10, 0x20, 0x40, 0x40,
  0xF0, 0x90, 0xF0, 0x90, 0xF0,
  0xF0, 0x90, 0xF0, 0x10, 0xF0,
  0xF0, 0x90, 0xF0, 0x90, 0x90,
  0xE0, 0x90, 0xE0, 0x90, 0xE0,
  0xF0, 0x80, 0x80, 0x80, 0xF0,
  0xE0, 0x90, 0x90, 0x90, 0xE0,
  0xF0, 0x80, 0xF0, 0x80, 0xF0,
  0xF0, 0x80, 0xF0, 0x80, 0x80]

/-- The default configuration (00_scope.md R12). -/
def standardConfig : Config := { font := standardFont }

/-- What an address that memory does not list reads as: the font below 0x050, zero above (R55, R57, D6). -/
def unlistedByte (font : Vector Byte 80) (a : Nat) : Byte :=
  if h : a < 80 then font[a] else 0

end Sys2Proof.Machine
end

