-- ==== Sys2Proof/Machine/State.lean ====
section
/-! DEFINITION. The state of the machine (10_state.md R20), the host's transactions and their results (00_scope.md R5,
40_pipeline.md R100), and the state right after reset (R44). -/

namespace Sys2Proof.Machine

/-- The run state (10_state.md R41, 60_exceptions.md R230). -/
inductive RunState where
  | ready
  /-- FX0A waits for a key for V[x] (45_input.md R192). -/
  | awaitingKey (x : Reg)
  | halted
deriving DecidableEq, Repr

/-- The five error kinds, in the order of their codes (60_exceptions.md R220; the codes are `ErrorKind.code`). -/
inductive ErrorKind where
  | imageTooLarge
  | invalidOpcode
  | stackOverflow
  | stackUnderflow
  | memoryAccessOutOfRange
deriving DecidableEq, Repr

/-- The four fatal errors with what they record (60_exceptions.md R220). ImageTooLarge is not fatal: see `Result`. -/
inductive FatalError where
  | invalidOpcode (addr raw : Word)
  | stackOverflow (addr : Word)
  | stackUnderflow (addr : Word)
  /-- `a` is the first byte address above 0xFFF, an unbounded number (20_memory.md R53). -/
  | memoryAccessOutOfRange (addr : Word) (a : Nat)
deriving DecidableEq, Repr

/-- What a transaction gives back to the host (40_pipeline.md R100, 60_exceptions.md R220, R223, R239; log 5). -/
inductive Result where
  | ok
  | waiting
  | fatal (e : FatalError)
  | notRunning
  /-- `initialize` was given more than 3584 bytes; the instance is unchanged (70_reset_and_hazards.md R252). -/
  | imageTooLarge
  /-- `tick` and `reset` return nothing. -/
  | nothing
deriving DecidableEq, Repr

/-- A transaction of the host (00_scope.md R5, 60_exceptions.md R239; log 1). -/
inductive Transaction where
  /-- initialize(image) -/
  | load (image : List Byte)
  /-- reset() -/
  | reset
  /-- step(keys, rnd) -/
  | step (keys : Keys) (rnd : Byte)
  /-- tick() -/
  | tick
deriving DecidableEq, Repr

/-- The framebuffer: 32 rows of 64 pixels (10_state.md R35; log 17). -/
abbrev Framebuffer := Vector (Vector Bool 64) 32

/-- The machine. The first group is the spec's record (R20), then the configuration record (00_scope.md R12), then the
inputs and output of a transaction and the model's own fields (log 1 to 5). -/
structure State where
  /-- Memory: the bytes that differ from `unlistedByte`, addresses rising (20_memory.md R50, R57). -/
  mem : List Host.Cell
  /-- V0 to VF (R21). -/
  v : Vector Byte 16
  /-- The index register I (R25). -/
  i : Word
  /-- The program counter (R27). -/
  pc : Word
  /-- The call stack, oldest entry first (R30; log 7). -/
  stack : List Word
  /-- The delay timer DT (R33). -/
  dt : Byte
  /-- The sound timer ST (R33). -/
  st : Byte
  fb : Framebuffer
  run : RunState
  /-- The key vector of the last step without a fatal error (R40). -/
  prevKeys : Keys
  /-- The image of the last successful `initialize` (R42). -/
  image : List Byte
  /-- The configuration; no transaction changes it (log 9). -/
  cfg : Config
  /-- The key vector given to the step being run (R38; log 4). -/
  keys : Keys
  /-- The random byte given to the step being run (R39; log 4). -/
  rnd : Byte
  /-- What the last transaction gave back (log 5). -/
  result : Result
  /-- The transactions issued and not yet run, next first (log 1). -/
  pending : List Transaction
  /-- How many free inputs have been taken (log 3). -/
  draws : Nat
deriving DecidableEq, Repr

/-- Why the machine stops with a fault: never. Every error the spec names has an effect the spec gives (R220, R222,
R252), so it is a next state; no operation raises a fault (log 6). -/
inductive Fault where
deriving DecidableEq, Repr

/-- Why an instruction has no meaning. -/
inductive Refusal where
  /-- Raised by `exec` for an instruction the model gives no meaning yet; safe. No arm raises it in this model. -/
  | notModelled (mnemonic : String)
deriving DecidableEq, Repr

/-- A step's outcome on this machine. -/
abbrev Outcome := Host.Outcome State Fault Refusal

/-- The machine right after reset with an empty image: every field as R44 states it (log 8). -/
def State.reset : State where
  mem := []
  v := Vector.replicate 16 0
  i := 0x0000
  pc := 0x0200
  stack := []
  dt := 0x00
  st := 0x00
  fb := Vector.replicate 32 (Vector.replicate 64 false)
  run := .ready
  prevKeys := 0x0000
  image := []
  cfg := standardConfig
  keys := 0x0000
  rnd := 0x00
  result := .ok
  pending := []
  draws := 0

end Sys2Proof.Machine
end

