-- ==== Sys2Proof/Machine/Ops.lean ====
section
/-! DEFINITION. The named operations over memory, registers, the stack and the framebuffer (00_scope.md R16), the address
policy (20_memory.md R53), how an instruction ends (40_pipeline.md R105 to R107), and raising a fatal error
(60_exceptions.md R222). There is no return from an error but `reset` and `initialize` (R226), in Transactions.lean. -/

namespace Sys2Proof.Machine

/-! ### Memory as listed bytes over what an unlisted address reads as -/

/-- The byte at address `a`. -/
def Memory.read (base : Nat → Byte) : List Host.Cell → Nat → Byte
  | [], a => base a
  | c :: m, a => if c.1 = a then c.2 else Memory.read base m a

/-- Store `b` at address `a`, keeping the list rising and free of entries equal to `base`. -/
def Memory.write (base : Nat → Byte) : List Host.Cell → Nat → Byte → List Host.Cell
  | [], a, b => if b = base a then [] else [(a, b)]
  | c :: m, a, b =>
    if c.1 < a then c :: Memory.write base m a b
    else if c.1 = a then (if b = base a then m else (a, b) :: m)
    else if b = base a then c :: m else (a, b) :: c :: m

/-- The list that holds `bytes` from address `a` up and nothing else (R57). -/
def Memory.load (base : Nat → Byte) : Nat → List Byte → List Host.Cell
  | _, [] => []
  | a, b :: bytes =>
    if b = base a then Memory.load base (a + 1) bytes else (a, b) :: Memory.load base (a + 1) bytes

/-- The canonical form: addresses strictly rising and below 4096, no entry equal to what an unlisted address reads as. -/
abbrev Memory.wf (base : Nat → Byte) (m : List Host.Cell) : Prop :=
  m.Pairwise (fun c d => c.1 < d.1) ∧ ∀ c ∈ m, c.1 < Config.memSize ∧ c.2 ≠ base c.1

/-- The byte at address `a` of the machine's memory. -/
def State.readAddr (s : State) (a : Nat) : Byte := Memory.read (unlistedByte s.cfg.font) s.mem a

/-- Store `b` at address `a` of the machine's memory. -/
def State.writeAddr (s : State) (a : Nat) (b : Byte) : State :=
  { s with mem := Memory.write (unlistedByte s.cfg.font) s.mem a b }

/-! ### The address policy (R53) -/

/-- check_range(a, n): the address the error records, or none when the access may go on (R53). -/
def rangeError (cfg : Config) (a n : Nat) : Option Nat :=
  if cfg.addrPolicy = .check ∧ 1 ≤ n ∧ 0xFFF < a + n - 1 then some (max a 0x1000) else none

/-- byte_addr(a, k): the address of byte k of an access at `a` (R53). -/
def byteAddr (cfg : Config) (a k : Nat) : Nat :=
  match cfg.addrPolicy with
  | .check => a + k
  | .mask => (a + k) % Config.memSize

/-- MemRead(byte_addr(a, k), 1) (00_scope.md R16). -/
def State.readByte (s : State) (a k : Nat) : Byte := s.readAddr (byteAddr s.cfg a k)

/-- MemWrite(byte_addr(a, k), 1, b) (00_scope.md R16). -/
def State.writeByte (s : State) (a k : Nat) (b : Byte) : State := s.writeAddr (byteAddr s.cfg a k) b

/-! ### Registers (10_state.md R21) -/

/-- VF, the flag register (R23). -/
abbrev regF : Reg := 0xF

/-- V[x]. -/
def State.readV (s : State) (x : Reg) : Byte := s.v[x.toNat]'x.isLt

/-- V[x] <- b. -/
def State.writeV (s : State) (x : Reg) (b : Byte) : State := { s with v := s.v.set x.toNat b x.isLt }

/-- I <- w. -/
def State.setI (s : State) (w : Word) : State := { s with i := w }

/-- pc <- w. -/
def State.setPc (s : State) (w : Word) : State := { s with pc := w }

/-- DT <- b. -/
def State.setDt (s : State) (b : Byte) : State := { s with dt := b }

/-- ST <- b. -/
def State.setSt (s : State) (b : Byte) : State := { s with st := b }

/-- fb <- f. -/
def State.setFb (s : State) (f : Framebuffer) : State := { s with fb := f }

/-- run <- r. -/
def State.setRun (s : State) (r : RunState) : State := { s with run := r }

/-- pc <- pc + 2 mod 2^16: the advance before an instruction executes (40_pipeline.md R103), and past FX0A (45_input.md R193). -/
def State.advance (s : State) : State := s.setPc (s.pc + 2)

/-- A skip: 2 more when it is taken (41_control_flow.md R123). -/
def State.skipIf (s : State) (taken : Bool) : State := s.setPc (if taken then s.pc + 2 else s.pc)

/-! ### The call stack (10_state.md R30) -/

/-- The depth: the number of entries; the source's stack pointer. -/
def State.depth (s : State) : Nat := s.stack.length

/-- push(w): appends w. -/
def State.push (s : State) (w : Word) : State := { s with stack := s.stack ++ [w] }

/-- The stack without its last entry. -/
def State.dropTop (s : State) : State := { s with stack := s.stack.dropLast }

/-! ### The framebuffer (10_state.md R35) and the host's views (R37) -/

/-- Every pixel clear. -/
def Framebuffer.clear : Framebuffer := Vector.replicate 32 (Vector.replicate 64 false)

/-- fb[c, r]; false off the screen, where no instruction looks. -/
def Framebuffer.pixel (f : Framebuffer) (c r : Nat) : Bool :=
  if h : c < 64 ∧ r < 32 then (f[r]'h.2)[c]'h.1 else false

/-- fb[c, r] <- fb[c, r] XOR 1; nothing off the screen, where no instruction writes. -/
def Framebuffer.flip (f : Framebuffer) (c r : Nat) : Framebuffer :=
  if h : c < 64 ∧ r < 32 then f.set r ((f[r]'h.2).set c (!((f[r]'h.2)[c]'h.1)) h.1) h.2 else f

/-- The host's view of a pixel (R37). -/
def State.pixel (s : State) (c r : Nat) : Bool := Framebuffer.pixel s.fb c r

/-- sound_active = (ST != 0), the host's view (R37). -/
def State.soundActive (s : State) : Bool := s.st != 0

/-! ### The error kinds and their codes (60_exceptions.md R220) -/

/-- The code of an error kind (R220). -/
def ErrorKind.code : ErrorKind → Nat
  | .imageTooLarge => 0
  | .invalidOpcode => 1
  | .stackOverflow => 2
  | .stackUnderflow => 3
  | .memoryAccessOutOfRange => 4

/-- A fatal kind halts the core; ImageTooLarge alone is recoverable (R220). -/
def ErrorKind.isFatal : ErrorKind → Bool
  | .imageTooLarge => false
  | .invalidOpcode | .stackOverflow | .stackUnderflow | .memoryAccessOutOfRange => true

/-- The kind of a fatal error, without what it records. -/
def FatalError.kind : FatalError → ErrorKind
  | .invalidOpcode _ _ => .invalidOpcode
  | .stackOverflow _ => .stackOverflow
  | .stackUnderflow _ => .stackUnderflow
  | .memoryAccessOutOfRange _ _ => .memoryAccessOutOfRange

/-- The error a transaction gave back, if it gave one; NotRunning is no error kind (R220). -/
def Result.errorKind : Result → Option ErrorKind
  | .fatal e => some e.kind
  | .imageTooLarge => some .imageTooLarge
  | .ok | .waiting | .notRunning | .nothing => none

/-- The host's view of the last transaction's error: its code (R220). -/
def State.errorCode (s : State) : Option Nat := s.result.errorKind.map ErrorKind.code

/-! ### How a step ends -/

/-- The end of a step that raised nothing: prev_keys <- keys (40_pipeline.md R107) and the answer to the host (R100). -/
def State.commit (s : State) (r : Result) : State := { s with prevKeys := s.keys, result := r }

/-- The end of a step that raised `e`: only run changes, and the host is told (60_exceptions.md R222, R223). -/
def State.halt (s : State) (e : FatalError) : State := { s with run := .halted, result := .fatal e }

/-- A step that completed answers Ok (R100). -/
def complete (s : State) : Outcome := .next (s.commit .ok)

/-- A step after which the core waits for a key answers Waiting (R100). -/
def waitOn (s : State) : Outcome := .next (s.commit .waiting)

/-- Raise a fatal error; `s` is the state before the step's writes, so every one of them is discarded (R222). -/
def raise (s : State) (e : FatalError) : Outcome := .next (s.halt e)

/-- `k` after check_range(a, n), which may raise MemoryAccessOutOfRange(addr, a') instead (20_memory.md R53, R54);
`s` is the state before the step's writes, so its pc is the instruction's address. -/
def checked (s : State) (a n : Nat) (k : Outcome) : Outcome :=
  match rangeError s.cfg a n with
  | some a' => raise s (.memoryAccessOutOfRange s.pc a')
  | none => k

end Sys2Proof.Machine
end

