-- ==== Sys2Proof/Machine/Operands.lean ====
section
/-! DEFINITION. The operand forms: what a field, a register or a pair of them gives an instruction. -/

namespace Sys2Proof.Machine

/-- zext_16(NNN): an absolute 12-bit address (30_encoding.md R72). -/
def addrOf (nnn : Addr) : Word := nnn.setWidth 16

/-- zext_16 of a byte (43_index_memory.md R161). -/
def wordOf (b : Byte) : Word := b.setWidth 16

/-- The offset of BNNN: V0, or V[NNN[11:8]] under JUMP_USES_VX (41_control_flow.md R124). -/
def State.jumpOffset (s : State) (nnn : Addr) : Byte :=
  if s.cfg.jumpUsesVx then s.readV (nnn.extractLsb' 8 4) else s.readV 0

/-- What 8XY6 and 8XYE shift: V[X], or V[Y] under SHIFT_USES_VY (42_register_ops.md R148, R150). -/
def State.shiftSource (s : State) (x y : Reg) : Byte :=
  if s.cfg.shiftUsesVy then s.readV y else s.readV x

/-- The key a register names: its value mod 16 (45_input.md R190). -/
def keyIndex (b : Byte) : Nat := b.toNat % 16

/-- keys[k] of this step for the key V[x] names (45_input.md R190, R191). -/
def State.keyDown (s : State) (x : Reg) : Bool := s.keys.getLsbD (keyIndex (s.readV x))

/-- The address of the glyph of a value's low nibble (43_index_memory.md R162). -/
def glyphAddr (b : Byte) : Word := BitVec.ofNat 16 (Config.fontBase + 5 * (b.toNat % 16))

/-- The hundreds digit (43_index_memory.md R164). -/
def hundreds (b : Byte) : Byte := BitVec.ofNat 8 (b.toNat / 100)
/-- The tens digit (R164). -/
def tens (b : Byte) : Byte := BitVec.ofNat 8 (b.toNat / 10 % 10)
/-- The ones digit (R164). -/
def ones (b : Byte) : Byte := BitVec.ofNat 8 (b.toNat % 10)

/-- V[0] to V[n-1] stored at a, a+1, ... in order (43_index_memory.md R165). -/
def State.storeRegs (s : State) (a : Nat) : Nat → State
  | 0 => s
  | n + 1 => (s.storeRegs a n).writeByte a n (s.readV (BitVec.ofNat 4 n))

/-- V[0] to V[n-1] loaded from a, a+1, ... in order (43_index_memory.md R166). -/
def State.loadRegs (s : State) (a : Nat) : Nat → State
  | 0 => s
  | n + 1 => (s.loadRegs a n).writeV (BitVec.ofNat 4 n) (s.readByte a n)

/-- I after FX55 and FX65: I + n mod 2^16 under LOADSTORE_INCREMENTS_I, else unchanged (R165, R166). -/
def State.bumpI (s : State) (n : Nat) : State :=
  s.setI (if s.cfg.loadstoreIncrementsI then s.i + BitVec.ofNat 16 n else s.i)

end Sys2Proof.Machine
end

