-- ==== Sys2Proof/Machine/Flags.lean ====
section
/-! DEFINITION. Every flag the spec computes into VF (10_state.md R23), and the order of result and flag (R24): the
result goes to V[X] first, the flag to VF last. -/

namespace Sys2Proof.Machine

/-- A flag as VF holds it: 1 or 0. -/
def flagByte (f : Bool) : Byte := if f then 1 else 0

/-- Carry of 8XY4: the sum passes 255 (42_register_ops.md R146). -/
def carryFlag (a b : Byte) : Byte := flagByte (decide (255 < a.toNat + b.toNat))

/-- No borrow of a - b: a >= b (42_register_ops.md R147, R149). -/
def noBorrowFlag (a b : Byte) : Byte := flagByte (decide (b.toNat ≤ a.toNat))

/-- The bit a right shift by one shifts out: bit 0 (R148). -/
def shiftedOutRight (b : Byte) : Byte := flagByte (b.getLsbD 0)

/-- The bit a left shift by one shifts out: bit 7 (R150). -/
def shiftedOutLeft (b : Byte) : Byte := flagByte (b.getLsbD 7)

/-- V[x] <- r, then VF <- f (10_state.md R24). -/
def State.writeWithFlag (s : State) (x : Reg) (r f : Byte) : State := (s.writeV x r).writeV regF f

/-- V[x] <- r, then VF <- 0 when LOGIC_RESETS_VF (42_register_ops.md R143 to R145). -/
def State.writeLogic (s : State) (x : Reg) (r : Byte) : State :=
  if s.cfg.logicResetsVf then s.writeWithFlag x r 0 else s.writeV x r

end Sys2Proof.Machine
end

