-- ==== Sys2Proof/Machine/ControlFlow.lean ====
section
/-! DEFINITION. Control flow (41_control_flow.md): jumps, call and return, and the skips on registers. In every meaning
`s.pc` is the instruction's address and `s.advance.pc` is pc' (40_pipeline.md R103). -/

namespace Sys2Proof.Machine

/-- 00EE RET (R122). -/
def execRet (s : State) : Outcome :=
  match s.stack.getLast? with
  | none => raise s (.stackUnderflow s.pc)
  | some a => complete (s.dropTop.setPc a)

/-- 1NNN JP addr (R120). -/
def execJp (nnn : Addr) (s : State) : Outcome := complete (s.setPc (addrOf nnn))

/-- 2NNN CALL addr (R121). -/
def execCall (nnn : Addr) (s : State) : Outcome :=
  if s.depth = Config.stackDepth then raise s (.stackOverflow s.pc)
  else complete ((s.push s.advance.pc).setPc (addrOf nnn))

/-- 3XNN SE Vx, byte (R125). -/
def execSeImm (x : Reg) (nn : Byte) (s : State) : Outcome :=
  complete (s.advance.skipIf (s.readV x == nn))

/-- 4XNN SNE Vx, byte (R126). -/
def execSneImm (x : Reg) (nn : Byte) (s : State) : Outcome :=
  complete (s.advance.skipIf (s.readV x != nn))

/-- 5XY0 SE Vx, Vy (R127). -/
def execSeReg (x y : Reg) (s : State) : Outcome :=
  complete (s.advance.skipIf (s.readV x == s.readV y))

/-- 9XY0 SNE Vx, Vy (R128). -/
def execSneReg (x y : Reg) (s : State) : Outcome :=
  complete (s.advance.skipIf (s.readV x != s.readV y))

/-- BNNN JP V0, addr (R124). -/
def execJpV0 (nnn : Addr) (s : State) : Outcome :=
  complete (s.setPc (addrOf nnn + wordOf (s.jumpOffset nnn)))

end Sys2Proof.Machine
end

