-- ==== Sys2Proof/Machine/Display.lean ====
section
/-! DEFINITION. Display (44_display.md): clearing the screen and drawing a sprite by XOR. A drawing in progress is the
framebuffer with `hit`, whether a set pixel has been cleared. -/

namespace Sys2Proof.Machine

/-- 00E0 CLS (R180). -/
def execCls (s : State) : Outcome := complete (s.advance.setFb Framebuffer.clear)

/-- Flip the pixel at (xx, yy), noting a collision (R181). -/
def drawPixel (xx yy : Nat) (d : Framebuffer × Bool) : Framebuffer × Bool :=
  (Framebuffer.flip d.1 xx yy, d.2 || Framebuffer.pixel d.1 xx yy)

/-- Bit 7 - c of sprite byte `b`, drawn at column x0 + c of row yy, past column 63 wrapped or clipped (R181, R182). -/
def drawBit (clip : Bool) (x0 yy : Nat) (b : Byte) (c : Nat) (d : Framebuffer × Bool) : Framebuffer × Bool :=
  if b.getLsbD (7 - c) then
    if x0 + c < 64 then drawPixel (x0 + c) yy d
    else if clip then d else drawPixel (x0 + c - 64) yy d
  else d

/-- The first n bits of a sprite byte, left to right (R181). -/
def drawByte (clip : Bool) (x0 yy : Nat) (b : Byte) : Nat → Framebuffer × Bool → Framebuffer × Bool
  | 0, d => d
  | n + 1, d => drawBit clip x0 yy b n (drawByte clip x0 yy b n d)

/-- The first n rows of the sprite at I, top to bottom; rows past the bottom edge are clipped (R181). -/
def State.drawRows (s : State) (x0 y0 : Nat) : Nat → Framebuffer × Bool
  | 0 => (s.fb, false)
  | n + 1 =>
    if 32 ≤ y0 + n then s.drawRows x0 y0 n
    else drawByte s.cfg.spriteHClip x0 (y0 + n) (s.readByte s.i.toNat n) 8 (s.drawRows x0 y0 n)

/-- The drawing of DXYN: the start point is (V[X] mod 64, V[Y] mod 32) (R181). -/
def State.drawing (s : State) (x y : Reg) (n : Nibble) : Framebuffer × Bool :=
  s.drawRows ((s.readV x).toNat % 64) ((s.readV y).toNat % 32) n.toNat

/-- DXYN DRW Vx, Vy, nibble: VF is written last (R181). -/
def execDrw (x y : Reg) (n : Nibble) (s : State) : Outcome :=
  checked s s.i.toNat n.toNat (complete
    ((s.advance.setFb (s.drawing x y n).1).writeV regF (flagByte (s.drawing x y n).2)))

end Sys2Proof.Machine
end

