-- ==== Sys2Proof/Machine/IndexMemory.lean ====
section
/-! DEFINITION. The index register and memory (43_index_memory.md). A range is checked before the first write
(20_memory.md R54). -/

namespace Sys2Proof.Machine

/-- ANNN LD I, addr (R160). -/
def execLdI (nnn : Addr) (s : State) : Outcome := complete (s.advance.setI (addrOf nnn))

/-- FX1E ADD I, Vx: mod 2^16, no flag (R161). -/
def execAddI (x : Reg) (s : State) : Outcome := complete (s.advance.setI (s.i + wordOf (s.readV x)))

/-- FX29 LD F, Vx (R162). -/
def execLdF (x : Reg) (s : State) : Outcome := complete (s.advance.setI (glyphAddr (s.readV x)))

/-- FX33 LD B, Vx: three decimal digits at I (R164). -/
def execLdB (x : Reg) (s : State) : Outcome :=
  checked s s.i.toNat 3 (complete
    (((s.advance.writeByte s.i.toNat 0 (hundreds (s.readV x))).writeByte s.i.toNat 1
      (tens (s.readV x))).writeByte s.i.toNat 2 (ones (s.readV x))))

/-- FX55 LD [I], Vx: V0 to VX stored at I (R165). -/
def execLdStore (x : Reg) (s : State) : Outcome :=
  checked s s.i.toNat (x.toNat + 1) (complete
    ((s.advance.storeRegs s.i.toNat (x.toNat + 1)).bumpI (x.toNat + 1)))

/-- FX65 LD Vx, [I]: V0 to VX loaded from I (R166). -/
def execLdLoad (x : Reg) (s : State) : Outcome :=
  checked s s.i.toNat (x.toNat + 1) (complete
    ((s.advance.loadRegs s.i.toNat (x.toNat + 1)).bumpI (x.toNat + 1)))

end Sys2Proof.Machine
end

