-- ==== Sys2Proof/Machine/Input.lean ====
section
/-! DEFINITION. Input (45_input.md): the key skips, FX0A's entry into the wait, and the wait itself. -/

namespace Sys2Proof.Machine

/-- EX9E SKP Vx (R190). -/
def execSkp (x : Reg) (s : State) : Outcome := complete (s.advance.skipIf (s.keyDown x))

/-- EXA1 SKNP Vx (R191). -/
def execSknp (x : Reg) (s : State) : Outcome := complete (s.advance.skipIf (!s.keyDown x))

/-- FX0A LD Vx, K, entry: the core waits, and pc stays at the instruction (R192). -/
def execLdVxK (x : Reg) (s : State) : Outcome := waitOn (s.setRun (.awaitingKey x))

/-- The keys that went from released to pressed (R193). -/
def State.newKeys (s : State) : Keys := s.keys &&& ~~~s.prevKeys

/-- The lowest of the first `n` keys that is set, counting up from `k`. -/
def lowestFrom (w : Keys) : Nat → Nat → Option Nat
  | _, 0 => none
  | k, n + 1 => if w.getLsbD k then some k else lowestFrom w (k + 1) n

/-- The lowest set key of a key vector (R193). -/
def lowestKey (w : Keys) : Option Nat := lowestFrom w 0 16

/-- key_wait(x, keys): a step in AwaitingKey(x) (R193). -/
def keyWait (x : Reg) (s : State) : Outcome :=
  match lowestKey s.newKeys with
  | none => waitOn s
  | some k => complete ((s.advance.writeV x (BitVec.ofNat 8 k)).setRun .ready)

end Sys2Proof.Machine
end

