-- ==== Sys2Proof/Machine/Random.lean ====
section
/-! DEFINITION. The random number instruction (47_random.md). The random byte is the step's argument (10_state.md R39). -/

namespace Sys2Proof.Machine

/-- CXNN RND Vx, byte (R210). -/
def execRnd (x : Reg) (nn : Byte) (s : State) : Outcome := complete (s.advance.writeV x (s.rnd &&& nn))

end Sys2Proof.Machine
end

