-- ==== Sys2Proof/Machine/RegisterOps.lean ====
section
/-! DEFINITION. Register operations (42_register_ops.md): loads, add, logic, arithmetic, shifts. Operands are read from
`s`, the state before any write (10_state.md R24). -/

namespace Sys2Proof.Machine

/-- 6XNN LD Vx, byte (R140). -/
def execLdImm (x : Reg) (nn : Byte) (s : State) : Outcome := complete (s.advance.writeV x nn)

/-- 7XNN ADD Vx, byte: no flag (R141). -/
def execAddImm (x : Reg) (nn : Byte) (s : State) : Outcome :=
  complete (s.advance.writeV x (s.readV x + nn))

/-- 8XY0 LD Vx, Vy (R142). -/
def execLdReg (x y : Reg) (s : State) : Outcome := complete (s.advance.writeV x (s.readV y))

/-- 8XY1 OR Vx, Vy (R143). -/
def execOrReg (x y : Reg) (s : State) : Outcome :=
  complete (s.advance.writeLogic x (s.readV x ||| s.readV y))

/-- 8XY2 AND Vx, Vy (R144). -/
def execAndReg (x y : Reg) (s : State) : Outcome :=
  complete (s.advance.writeLogic x (s.readV x &&& s.readV y))

/-- 8XY3 XOR Vx, Vy (R145). -/
def execXorReg (x y : Reg) (s : State) : Outcome :=
  complete (s.advance.writeLogic x (s.readV x ^^^ s.readV y))

/-- 8XY4 ADD Vx, Vy, carry to VF (R146). -/
def execAddReg (x y : Reg) (s : State) : Outcome :=
  complete (s.advance.writeWithFlag x (s.readV x + s.readV y) (carryFlag (s.readV x) (s.readV y)))

/-- 8XY5 SUB Vx, Vy, no-borrow to VF (R147). -/
def execSub (x y : Reg) (s : State) : Outcome :=
  complete (s.advance.writeWithFlag x (s.readV x - s.readV y) (noBorrowFlag (s.readV x) (s.readV y)))

/-- 8XY6 SHR Vx (, Vy), shifted-out bit to VF (R148). -/
def execShr (x y : Reg) (s : State) : Outcome :=
  complete (s.advance.writeWithFlag x (s.shiftSource x y >>> 1) (shiftedOutRight (s.shiftSource x y)))

/-- 8XY7 SUBN Vx, Vy, no-borrow to VF (R149). -/
def execSubn (x y : Reg) (s : State) : Outcome :=
  complete (s.advance.writeWithFlag x (s.readV y - s.readV x) (noBorrowFlag (s.readV y) (s.readV x)))

/-- 8XYE SHL Vx (, Vy), shifted-out bit to VF (R150). -/
def execShl (x y : Reg) (s : State) : Outcome :=
  complete (s.advance.writeWithFlag x (s.shiftSource x y <<< 1) (shiftedOutLeft (s.shiftSource x y)))

end Sys2Proof.Machine
end

