-- ==== Sys2Proof/Machine/Timers.lean ====
section
/-! DEFINITION. The timer instructions (46_timers.md). The decrement is `tick`, in Transactions.lean. -/

namespace Sys2Proof.Machine

/-- FX07 LD Vx, DT (R200). -/
def execLdVxDt (x : Reg) (s : State) : Outcome := complete (s.advance.writeV x s.dt)

/-- FX15 LD DT, Vx (R201). -/
def execLdDtVx (x : Reg) (s : State) : Outcome := complete (s.advance.setDt (s.readV x))

/-- FX18 LD ST, Vx (R202). -/
def execLdStVx (x : Reg) (s : State) : Outcome := complete (s.advance.setSt (s.readV x))

end Sys2Proof.Machine
end

