-- ==== Sys2Proof/Machine/Transactions.lean ====
section
/-! DEFINITION. The host's transactions: `initialize` and `reset` (70_reset_and_hazards.md R250 to R252), `tick`
(60_exceptions.md R235), and `step` (40_pipeline.md R108) with the fetch (R101). -/

namespace Sys2Proof.Machine

/-! ### initialize and reset -/

/-- What a successful `initialize(image)` leaves: every field of the record of R44; the configuration, the inputs and
the model's own fields stay (R250). -/
def State.loaded (s : State) (image : List Byte) : State :=
  { s with
    mem := Memory.load (unlistedByte s.cfg.font) Config.programStart image
    v := Vector.replicate 16 0
    i := 0x0000
    pc := 0x0200
    stack := []
    dt := 0x00
    st := 0x00
    fb := Framebuffer.clear
    run := .ready
    prevKeys := 0x0000
    image := image }

/-- initialize(image) (R250); a failed one leaves the instance as it was (R252). -/
def runLoad (image : List Byte) (s : State) : Outcome :=
  .next (if imageFits image then { s.loaded image with result := .ok } else { s with result := .imageTooLarge })

/-- reset() (R251). -/
def runReset (s : State) : Outcome := .next { s.loaded s.image with result := .nothing }

/-! ### tick -/

/-- One timer, one tick: down by one, floored at zero (60_exceptions.md R235). -/
def countDown (b : Byte) : Byte := if b = 0 then b else b - 1

/-- tick() (R235), in every run state (R236). -/
def runTick (s : State) : Outcome :=
  .next { s with dt := countDown s.dt, st := countDown s.st, result := .nothing }

/-! ### step -/

/-- The word at pc, high byte first (40_pipeline.md R101). -/
def State.fetchWord (s : State) : Word :=
  wordOfBytes (s.readByte s.pc.toNat 0) (s.readByte s.pc.toNat 1)

/-- Execute what the decoder answered; `invalid` raises InvalidOpcode with the raw word (R104, R105). -/
def runDecoded (d : Decoded) (s : State) : Outcome :=
  match d with
  | .instr i => exec i s
  | .invalid _ => raise s (.invalidOpcode s.pc s.fetchWord)

/-- A step in Ready: fetch, decode, execute (R101, R104, R105). -/
def runReady (s : State) : Outcome := checked s s.pc.toNat 2 (runDecoded (decode s.fetchWord) s)

/-- A step in Halted changes nothing and says so (R108). -/
def runHalted (s : State) : Outcome := .next { s with result := .notRunning }

/-- A step by the run state (R108), its arguments already in `s`. -/
def runStep (s : State) : Outcome :=
  match s.run with
  | .ready => runReady s
  | .awaitingKey x => keyWait x s
  | .halted => runHalted s

/-- `s` with the arguments of a step transaction (10_state.md R38, R39; log 4). -/
def State.withInputs (s : State) (keys : Keys) (rnd : Byte) : State := { s with keys := keys, rnd := rnd }

/-- One transaction (60_exceptions.md R239). -/
def runTransaction (t : Transaction) (s : State) : Outcome :=
  match t with
  | .load image => runLoad image s
  | .reset => runReset s
  | .step keys rnd => runStep (s.withInputs keys rnd)
  | .tick => runTick s

/-- The next transaction and the state without it: the head of `pending`; when nothing is pending, a step with free
inputs (log 1, 2). -/
def State.nextTransaction (s : State) : Transaction × State :=
  match s.pending with
  | t :: rest => (t, { s with pending := rest })
  | [] => (.step (Config.freeKeys s.draws) (Config.freeRnd s.draws), { s with draws := s.draws + 1 })

/-! ### Placing an instruction where the next step fetches it (log 14) -/

/-- The transactions, beginning with a step: as they are when the next one is a step, or when nothing is pending. -/
def stepFirst (s : State) : List Transaction :=
  match s.pending with
  | [] => []
  | .step keys rnd :: rest => .step keys rnd :: rest
  | t :: rest => .step s.keys s.rnd :: t :: rest

/-- Ready, with a pc the fetch accepts. -/
def State.fetchable (s : State) : State :=
  { s with run := .ready, pc := if (rangeError s.cfg s.pc.toNat 2).isSome then 0x0200 else s.pc }

/-- `s` with `word` at its pc. -/
def State.placeWord (s : State) (word : Word) : State :=
  (s.writeByte s.pc.toNat 0 (highByte word)).writeByte s.pc.toNat 1 (lowByte word)

end Sys2Proof.Machine
end

