-- ==== Sys2Proof/Machine/Step.lean ====
section
/-! DEFINITION. One step of the machine: one transaction of the host (log 1). -/

namespace Sys2Proof.Machine

/-- Run the next transaction. -/
def step (s : State) : Host.Outcome State Fault Refusal :=
  runTransaction s.nextTransaction.1 s.nextTransaction.2

/-- `s` with the instruction of bits `w` placed where the next step fetches it, that next transaction being a step in
Ready (log 14). -/
def State.withFetchWord (s : State) (nbits w : Nat) : State :=
  { s.fetchable.placeWord (BitVec.ofNat 16 (w % 2 ^ nbits)) with pending := stepFirst s }

end Sys2Proof.Machine
end

