-- ==== Sys2Proof/Safety.lean ====
section
/-! DEFINITION. The terms claims are stated in: what a state may hold (the invariants), which error a step meets
(60_exceptions.md R224), and the frame of an instruction (what it leaves as it was). -/

namespace Sys2Proof.Machine

/-! ### Invariants -/

/-- The shape every reachable state has: memory in its canonical form (20_memory.md R50), at most 16 return addresses
(10_state.md R31), an image that fits (70_reset_and_hazards.md R250). -/
structure State.Wf (s : State) : Prop where
  memory : Memory.wf (unlistedByte s.cfg.font) s.mem
  depth : s.depth ≤ Config.stackDepth
  image : s.image.length ≤ Config.maxImage

/-- While the core waits for a key, pc holds the address of the FX0A being waited on (10_state.md R27). -/
def State.WaitsAtKeyInstr (s : State) : Prop :=
  ∀ x, s.run = .awaitingKey x → rangeError s.cfg s.pc.toNat 2 = none ∧ decode s.fetchWord = .instr (.ldVxK x)

/-- Under `check` neither pc nor a return address comes near a 16-bit wrap (10_state.md R29). -/
def State.PcBounded (s : State) : Prop :=
  s.cfg.addrPolicy = .check → s.pc.toNat ≤ 0x10FE ∧ ∀ a ∈ s.stack, a.toNat ≤ 0x1000

/-! ### Which error a step in Ready meets -/

/-- The one check of an instruction (60_exceptions.md R224, point 3), at a state whose pc is its address. -/
def State.instrError (s : State) : Instr → Option FatalError
  | .call _ => if s.depth = 16 then some (.stackOverflow s.pc) else none
  | .ret => if s.depth = 0 then some (.stackUnderflow s.pc) else none
  | .drw _ _ n => (rangeError s.cfg s.i.toNat n.toNat).map (.memoryAccessOutOfRange s.pc)
  | .ldB _ => (rangeError s.cfg s.i.toNat 3).map (.memoryAccessOutOfRange s.pc)
  | .ldStore x => (rangeError s.cfg s.i.toNat (x.toNat + 1)).map (.memoryAccessOutOfRange s.pc)
  | .ldLoad x => (rangeError s.cfg s.i.toNat (x.toNat + 1)).map (.memoryAccessOutOfRange s.pc)
  | _ => none

/-- The first error a step in Ready meets, in the order of R224: fetch range, decode, the instruction's check. -/
def State.firstError (s : State) : Option FatalError :=
  match rangeError s.cfg s.pc.toNat 2 with
  | some a => some (.memoryAccessOutOfRange s.pc a)
  | none =>
    match decode s.fetchWord with
    | .invalid _ => some (.invalidOpcode s.pc s.fetchWord)
    | .instr i => s.instrError i

/-- In Halted the error can be read off again: the instruction at pc still meets one (60_exceptions.md R222). -/
def State.HaltedAtError (s : State) : Prop := s.run = .halted → s.firstError.isSome

/-! ### Frames -/

/-- What an instruction may change beside pc: the registers listed, the addresses stored to, and the parts marked. -/
structure Footprint where
  regs : List Reg := []
  stores : List Nat := []
  index : Bool := false
  stack : Bool := false
  dt : Bool := false
  st : Bool := false
  fb : Bool := false
  run : Bool := false

/-- `t` is `s` but for pc, what the footprint lists, and the key history and result of the step (40_pipeline.md R107,
R100); of the spec's record (10_state.md R20) everything else reads as before. -/
structure State.Frame (s t : State) (f : Footprint) : Prop where
  regs : ∀ y, y ∉ f.regs → t.readV y = s.readV y
  mem : ∀ a, a ∉ f.stores → t.readAddr a = s.readAddr a
  index : f.index = false → t.i = s.i
  stack : f.stack = false → t.stack = s.stack
  dt : f.dt = false → t.dt = s.dt
  st : f.st = false → t.st = s.st
  fb : f.fb = false → t.fb = s.fb
  run : f.run = false → t.run = s.run
  image : t.image = s.image

/-- The fields that are no part of the spec's record and that no instruction touches: the configuration, the step's
inputs, the transactions to come and the counter of free inputs (log 1 to 4, 9). -/
structure State.SameHost (s t : State) : Prop where
  cfg : t.cfg = s.cfg
  keys : t.keys = s.keys
  rnd : t.rnd = s.rnd
  pending : t.pending = s.pending
  draws : t.draws = s.draws

/-- The addresses of an access of n bytes at a, in order (20_memory.md R53). -/
def accessed (cfg : Config) (a n : Nat) : List Nat := (List.range n).map (byteAddr cfg a)

/-- V0 to V[n-1]. -/
def firstRegs (n : Nat) : List Reg := (List.range n).map (BitVec.ofNat 4)

/-- The registers a bitwise instruction writes: V[x], and VF when LOGIC_RESETS_VF (42_register_ops.md R143). -/
def logicRegs (cfg : Config) (x : Reg) : List Reg := if cfg.logicResetsVf then [x, regF] else [x]

/-- What each instruction may change beside pc, by the rules of 41_control_flow.md to 47_random.md. -/
def State.footprint (s : State) : Instr → Footprint
  | .cls => { fb := true }
  | .ret | .call _ => { stack := true }
  | .jp _ | .jpV0 _ | .seImm _ _ | .sneImm _ _ | .seReg _ _ | .sneReg _ _ | .skp _ | .sknp _ => {}
  | .ldImm x _ | .addImm x _ | .ldReg x _ | .rnd x _ | .ldVxDt x => { regs := [x] }
  | .orReg x _ | .andReg x _ | .xorReg x _ => { regs := logicRegs s.cfg x }
  | .addReg x _ | .sub x _ | .shr x _ | .subn x _ | .shl x _ => { regs := [x, regF] }
  | .ldI _ | .addI _ | .ldF _ => { index := true }
  | .drw _ _ _ => { regs := [regF], fb := true }
  | .ldVxK _ => { run := true }
  | .ldDtVx _ => { dt := true }
  | .ldStVx _ => { st := true }
  | .ldB _ => { stores := accessed s.cfg s.i.toNat 3 }
  | .ldStore x => { stores := accessed s.cfg s.i.toNat (x.toNat + 1), index := s.cfg.loadstoreIncrementsI }
  | .ldLoad x => { regs := firstRegs (x.toNat + 1), index := s.cfg.loadstoreIncrementsI }

/-- The access of n bytes at a may go on: under `check` it ends at or below 0xFFF (20_memory.md R53). -/
def InRange (cfg : Config) (a n : Nat) : Prop := cfg.addrPolicy = .check → 1 ≤ n → a + n - 1 ≤ 0xFFF

/-! ### Sprites -/

/-- Whether the sprite of n rows at I, started at (x0, y0), has a set bit on pixel (c, r) (44_display.md R181, R182): row
r - y0 of it, bit 7 - j at column distance j < 8 to the right, past the right edge only when not clipped. -/
def State.spriteCovers (s : State) (x0 y0 n c r : Nat) : Bool :=
  decide (y0 ≤ r ∧ r - y0 < n ∧ (c + 64 - x0) % 64 < 8 ∧ (s.cfg.spriteHClip = true → x0 ≤ c)) &&
    (s.readByte s.i.toNat (r - y0)).getLsbD (7 - (c + 64 - x0) % 64)

/-- Instructions executed one after another, whatever memory holds: what each meaning leaves is what the next starts
from. -/
def runInstrs : List Instr → State → Outcome
  | [], s => .next s
  | i :: rest, s =>
    match exec i s with
    | .next t => runInstrs rest t
    | .fault e => .fault e
    | .refused r => .refused r

end Sys2Proof.Machine
end

