-- ==== Sys2Proof/Certificates/Slice0/Obligations.lean ====
section
/-! DEFINITION. The statements for the provers. A statement about an instruction says that `exec` answers a next state,
what that state holds, and its frame. Registers are read with `readV`, memory bytes with `readAddr`. -/

open Sys2Proof Sys2Proof.Machine

/-! ### Encoding (30_encoding.md) -/

/-- 30_encoding.md R73, R74: every instruction, with every operand at every value, decodes from its own word. -/
def Obligations.DecodeOfEncode : Prop := ∀ i : Instr, decode (encode i) = .instr i

/-- 30_encoding.md R73, R74: a legal word is the encoding of what it decodes to: the decoder drops no bit. -/
def Obligations.EncodeOfDecode : Prop := ∀ (w : Word) (i : Instr), decode w = .instr i → encode i = w

/-- 30_encoding.md R74, R75: the decoder answers the row of the opcode table that the word matches, by its mnemonic, and
`invalid` exactly when it matches none. -/
def Obligations.DecodeFollowsOpcodeTable : Prop :=
  ∀ w : Word,
    (∀ i, decode w = .instr i → ∃ r ∈ opcodeTable, r.hits w = true ∧ r.mnemonic = i.mnemonic) ∧
    ((∃ why, decode w = .invalid why) ↔ ∀ r ∈ opcodeTable, r.hits w = false)

/-- 30_encoding.md R73: the rows of the opcode table are pairwise disjoint. -/
def Obligations.OpcodeRowsDisjoint : Prop :=
  ∀ w : Word, ∀ r ∈ opcodeTable, ∀ q ∈ opcodeTable, r.hits w = true → q.hits w = true → r = q

/-- 30_encoding.md R71, R73: words written out from the patterns, one or more of every family; the first six are the
words the source shows. -/
def Obligations.SampleWordsDecode : Prop :=
  decode 0x00E0 = .instr .cls ∧ decode 0x6005 = .instr (.ldImm 0 5) ∧ decode 0x6105 = .instr (.ldImm 1 5) ∧
  decode 0xA000 = .instr (.ldI 0) ∧ decode 0xD015 = .instr (.drw 0 1 5) ∧ decode 0x3005 = .instr (.seImm 0 5) ∧
  decode 0x00EE = .instr .ret ∧ decode 0x2ABC = .instr (.call 0xABC) ∧ decode 0x812E = .instr (.shl 1 2) ∧
  decode 0xC35A = .instr (.rnd 3 0x5A) ∧ decode 0xE49E = .instr (.skp 4) ∧ decode 0xF50A = .instr (.ldVxK 5) ∧
  decode 0xF618 = .instr (.ldStVx 6) ∧ decode 0xF755 = .instr (.ldStore 7) ∧
  decode 0x5121 = .invalid .family5 ∧ decode 0x0123 = .invalid .machineCode

/-! ### The step (40_pipeline.md) -/

/-- 40_pipeline.md R101, R104, R105, R108: a step in Ready whose word decodes to i is exec of i; the step transaction
puts its arguments into keys and rnd and leaves the transactions behind it. With nothing pending the arguments are free
values (log 2). The word is the two bytes at pc, high byte first. -/
def Obligations.StepRunsDecodedInstruction : Prop :=
  ∀ (s : State) (i : Instr), s.run = .ready → InRange s.cfg s.pc.toNat 2 →
    decode (s.readAddr (byteAddr s.cfg s.pc.toNat 0) ++ s.readAddr (byteAddr s.cfg s.pc.toNat 1)) = .instr i →
    (∀ keys rnd rest, s.pending = .step keys rnd :: rest →
      step s = exec i { s with pending := rest, keys := keys, rnd := rnd }) ∧
    (s.pending = [] →
      step s = exec i { s with draws := s.draws + 1, keys := Config.freeKeys s.draws, rnd := Config.freeRnd s.draws })

/-- 40_pipeline.md R101: the fetch reads the high byte at pc and the low byte at pc + 1; under `check`, pc = 0xFFF or
pc >= 0x1000 raises MemoryAccessOutOfRange(addr, max(addr, 0x1000)) before anything else. -/
def Obligations.FetchWordOrRangeError : Prop :=
  ∀ s : State, s.run = .ready →
    (s.cfg.addrPolicy = .check → 0xFFF ≤ s.pc.toNat →
      runStep s = .next { s with run := .halted,
                                 result := .fatal (.memoryAccessOutOfRange s.pc (max s.pc.toNat 0x1000)) }) ∧
    (s.cfg.addrPolicy = .check → s.pc.toNat < 0xFFF →
      ∀ w : Word, w.toNat = 256 * (s.readAddr s.pc.toNat).toNat + (s.readAddr (s.pc.toNat + 1)).toNat →
        ∀ i, decode w = .instr i → runStep s = exec i s) ∧
    (s.cfg.addrPolicy = .mask →
      ∀ w : Word, w.toNat = 256 * (s.readAddr (s.pc.toNat % 4096)).toNat +
          (s.readAddr ((s.pc.toNat + 1) % 4096)).toNat →
        ∀ i, decode w = .instr i → runStep s = exec i s)

/-- 40_pipeline.md R104: a word no row matches raises InvalidOpcode with the address it was fetched from and the raw
word. -/
def Obligations.InvalidWordRaisesInvalidOpcode : Prop :=
  ∀ s : State, s.run = .ready → InRange s.cfg s.pc.toNat 2 → (∀ r ∈ opcodeTable, r.hits s.fetchWord = false) →
    runStep s = .next { s with run := .halted, result := .fatal (.invalidOpcode s.pc s.fetchWord) }

/-- 40_pipeline.md R108 (the spec's decision D24): a step in Halted changes nothing and answers NotRunning. -/
def Obligations.HaltedStepChangesNothing : Prop :=
  ∀ s : State, s.run = .halted → runStep s = .next { s with result := .notRunning }

/-- 20_memory.md R64, 60_exceptions.md R239: the transactions issued run one at a time in the order issued (the pending
list is the model's, log 1). -/
def Obligations.PendingTransactionsRunInOrder : Prop :=
  ∀ (s : State) (u : Transaction) (rest : List Transaction), s.pending = u :: rest →
    step s = runTransaction u { s with pending := rest } ∧ ∃ t, step s = .next t ∧ t.pending = rest

/-- 40_pipeline.md R106, 60_exceptions.md R222, R224 (decisions D26, D28): a step in Ready raises exactly the first error
it meets, and then only run and the answer change; a step that meets none answers Waiting and leaves the core in
AwaitingKey, or answers Ok and leaves it in Ready (R100, R108), and ends with prev_keys <- keys (R107). -/
def Obligations.StepRaisesExactlyFirstError : Prop :=
  ∀ s : State, s.run = .ready →
    (∀ e, s.firstError = some e → runStep s = .next { s with run := .halted, result := .fatal e }) ∧
    (s.firstError = none → ∃ t, runStep s = .next t ∧ t.prevKeys = s.keys ∧
      ((t.result = .waiting ∧ ∃ x, t.run = .awaitingKey x) ∨ (t.result = .ok ∧ t.run = .ready)))

/-- 60_exceptions.md R221: under `mask` no step raises MemoryAccessOutOfRange. -/
def Obligations.MaskPolicyNeverOutOfRange : Prop :=
  ∀ (s t : State) (addr : Word) (a : Nat), s.cfg.addrPolicy = .mask → runStep s = .next t →
    t.result ≠ .fatal (.memoryAccessOutOfRange addr a)

/-- 60_exceptions.md R222, R239: every transaction in every state has a next state; no step of the model faults or
refuses (log 6). -/
def Obligations.EveryStepHasANextState : Prop := ∀ s : State, ∃ t, step s = .next t

/-! ### Control flow (41_control_flow.md) -/

/-- 41_control_flow.md R120 (JP). -/
def Obligations.JumpSetsPc : Prop :=
  ∀ (nnn : Addr) (s : State), ∃ t, exec (.jp nnn) s = .next t ∧ t.pc.toNat = nnn.toNat ∧ s.Frame t {}

/-- 41_control_flow.md R121 (CALL): pushes pc' and jumps, or raises StackOverflow at depth 16 and changes nothing but
run (what raising does is R222, the decision D26). -/
def Obligations.CallPushesReturnAddress : Prop :=
  ∀ (nnn : Addr) (s : State),
    (s.depth ≠ 16 → ∃ t, exec (.call nnn) s = .next t ∧ t.stack = s.stack ++ [s.pc + 2] ∧
      t.pc.toNat = nnn.toNat ∧ s.Frame t { stack := true }) ∧
    (s.depth = 16 → exec (.call nnn) s = .next { s with run := .halted, result := .fatal (.stackOverflow s.pc) })

/-- 41_control_flow.md R122 (RET): pops the last entry into pc, or raises StackUnderflow at depth 0 and changes nothing
but run (R222, the decision D26). -/
def Obligations.ReturnPopsIntoPc : Prop :=
  ∀ s : State,
    (∀ below a, s.stack = below ++ [a] → ∃ t, exec .ret s = .next t ∧ t.stack = below ∧ t.pc = a ∧
      s.Frame t { stack := true }) ∧
    (s.stack = [] → exec .ret s = .next { s with run := .halted, result := .fatal (.stackUnderflow s.pc) })

/-- 41_control_flow.md R121, R122, R130: a RET after a CALL comes back to the word after the CALL, with the stack as it
was. -/
def Obligations.ReturnUndoesCall : Prop :=
  ∀ (nnn : Addr) (s : State), s.depth < 16 →
    ∃ t u, exec (.call nnn) s = .next t ∧ exec .ret t = .next u ∧ u.stack = s.stack ∧ u.pc = s.pc + 2 ∧ s.Frame u {}

/-- 41_control_flow.md R121 (and the source's test W6): from an empty stack sixteen CALLs in a row go through, each one
deeper, and a seventeenth raises StackOverflow. -/
def Obligations.SixteenNestedCallsThenOverflow : Prop :=
  ∀ (targets : List Addr) (s : State), s.stack = [] → targets.length ≤ 16 →
    ∃ t, runInstrs (targets.map Instr.call) s = .next t ∧ t.depth = targets.length ∧ t.run = s.run ∧
      (targets.length = 16 → ∀ nnn, exec (.call nnn) t =
        .next { t with run := .halted, result := .fatal (.stackOverflow t.pc) })

/-- 41_control_flow.md R125 (SE Vx, byte). -/
def Obligations.SkipIfEqualByte : Prop :=
  ∀ (x : Reg) (nn : Byte) (s : State), ∃ t, exec (.seImm x nn) s = .next t ∧
    t.pc = (if s.readV x = nn then s.pc + 4 else s.pc + 2) ∧ s.Frame t {}

/-- 41_control_flow.md R126, R127, R128 (SNE Vx, byte; SE Vx, Vy; SNE Vx, Vy), R123. -/
def Obligations.SkipOnRegisters : Prop :=
  ∀ (x y : Reg) (nn : Byte) (s : State),
    (∃ t, exec (.sneImm x nn) s = .next t ∧ t.pc = (if s.readV x = nn then s.pc + 2 else s.pc + 4) ∧ s.Frame t {}) ∧
    (∃ t, exec (.seReg x y) s = .next t ∧
      t.pc = (if s.readV x = s.readV y then s.pc + 4 else s.pc + 2) ∧ s.Frame t {}) ∧
    (∃ t, exec (.sneReg x y) s = .next t ∧
      t.pc = (if s.readV x = s.readV y then s.pc + 2 else s.pc + 4) ∧ s.Frame t {})

/-- 41_control_flow.md R124 (JP V0, addr; decision D15): the sum does not wrap; under JUMP_USES_VX the offset is V[X],
X = NNN[11:8]. -/
def Obligations.IndexedJumpAddsOffset : Prop :=
  ∀ (nnn : Addr) (s : State), ∃ t, exec (.jpV0 nnn) s = .next t ∧ s.Frame t {} ∧
    (s.cfg.jumpUsesVx = false → t.pc.toNat = nnn.toNat + (s.readV 0).toNat) ∧
    (s.cfg.jumpUsesVx = true → t.pc.toNat = nnn.toNat + (s.readV (BitVec.ofNat 4 (nnn.toNat / 256))).toNat)

/-! ### Register operations (42_register_ops.md) -/

/-- 42_register_ops.md R140, R142 (LD Vx, byte; LD Vx, Vy). -/
def Obligations.LoadsWriteVx : Prop :=
  ∀ (x y : Reg) (nn : Byte) (s : State),
    (∃ t, exec (.ldImm x nn) s = .next t ∧ t.readV x = nn ∧ t.pc = s.pc + 2 ∧ s.Frame t { regs := [x] }) ∧
    (∃ t, exec (.ldReg x y) s = .next t ∧ t.readV x = s.readV y ∧ t.pc = s.pc + 2 ∧ s.Frame t { regs := [x] })

/-- 42_register_ops.md R141 (ADD Vx, byte): modulo 256, and VF is written only when it is Vx. -/
def Obligations.AddByteSetsNoFlag : Prop :=
  ∀ (x : Reg) (nn : Byte) (s : State), ∃ t, exec (.addImm x nn) s = .next t ∧
    (t.readV x).toNat = ((s.readV x).toNat + nn.toNat) % 256 ∧ t.pc = s.pc + 2 ∧ s.Frame t { regs := [x] }

/-- 42_register_ops.md R143, R144, R145 (OR, AND, XOR; decision D12): bit by bit; VF is written 0, last, only under
LOGIC_RESETS_VF. -/
def Obligations.LogicOpsBitwise : Prop :=
  ∀ (x y : Reg) (s : State) (op : Bool → Bool → Bool) (i : Instr),
    (i = .orReg x y ∧ op = or) ∨ (i = .andReg x y ∧ op = and) ∨ (i = .xorReg x y ∧ op = xor) →
    ∃ t, exec i s = .next t ∧ t.pc = s.pc + 2 ∧ s.Frame t { regs := logicRegs s.cfg x } ∧
      (¬(s.cfg.logicResetsVf = true ∧ x = 0xF) →
        ∀ k < 8, (t.readV x).getLsbD k = op ((s.readV x).getLsbD k) ((s.readV y).getLsbD k)) ∧
      (s.cfg.logicResetsVf = true → t.readV 0xF = 0)

/-- 42_register_ops.md R146 (ADD Vx, Vy; decision D11 for X = F): VF ends as the carry. -/
def Obligations.AddSetsCarry : Prop :=
  ∀ (x y : Reg) (s : State), ∃ t, exec (.addReg x y) s = .next t ∧
    (x ≠ 0xF → (t.readV x).toNat = ((s.readV x).toNat + (s.readV y).toNat) % 256) ∧
    t.readV 0xF = (if (s.readV x).toNat + (s.readV y).toNat > 255 then 1 else 0) ∧
    t.pc = s.pc + 2 ∧ s.Frame t { regs := [x, 0xF] }

/-- 42_register_ops.md R147 (SUB; decision D11 for X = F): VF ends as 1 for no borrow, equality included. -/
def Obligations.SubtractSetsNoBorrow : Prop :=
  ∀ (x y : Reg) (s : State), ∃ t, exec (.sub x y) s = .next t ∧
    (x ≠ 0xF → (t.readV x).toNat = ((s.readV x).toNat + 256 - (s.readV y).toNat) % 256) ∧
    t.readV 0xF = (if (s.readV x).toNat ≥ (s.readV y).toNat then 1 else 0) ∧
    t.pc = s.pc + 2 ∧ s.Frame t { regs := [x, 0xF] }

/-- 42_register_ops.md R149 (SUBN; decision D11 for X = F): the operands of SUB reversed. -/
def Obligations.ReverseSubtractSetsNoBorrow : Prop :=
  ∀ (x y : Reg) (s : State), ∃ t, exec (.subn x y) s = .next t ∧
    (x ≠ 0xF → (t.readV x).toNat = ((s.readV y).toNat + 256 - (s.readV x).toNat) % 256) ∧
    t.readV 0xF = (if (s.readV y).toNat ≥ (s.readV x).toNat then 1 else 0) ∧
    t.pc = s.pc + 2 ∧ s.Frame t { regs := [x, 0xF] }

/-- 42_register_ops.md R148, R150 (SHR, SHL; decision D13): the source is V[X], or V[Y] under SHIFT_USES_VY; VF ends as
the bit shifted out. -/
def Obligations.ShiftsByOne : Prop :=
  ∀ (x y z : Reg) (s : State), (z = if s.cfg.shiftUsesVy then y else x) →
    (∃ t, exec (.shr x y) s = .next t ∧ (x ≠ 0xF → (t.readV x).toNat = (s.readV z).toNat / 2) ∧
      (t.readV 0xF).toNat = (s.readV z).toNat % 2 ∧ t.pc = s.pc + 2 ∧ s.Frame t { regs := [x, 0xF] }) ∧
    (∃ t, exec (.shl x y) s = .next t ∧ (x ≠ 0xF → (t.readV x).toNat = (s.readV z).toNat * 2 % 256) ∧
      (t.readV 0xF).toNat = (s.readV z).toNat / 128 ∧ t.pc = s.pc + 2 ∧ s.Frame t { regs := [x, 0xF] })

/-! ### Index register and memory (43_index_memory.md) -/

/-- 43_index_memory.md R160 (LD I, addr). -/
def Obligations.LoadIndexAddress : Prop :=
  ∀ (nnn : Addr) (s : State), ∃ t, exec (.ldI nnn) s = .next t ∧ t.i.toNat = nnn.toNat ∧ t.pc = s.pc + 2 ∧
    s.Frame t { index := true }

/-- 43_index_memory.md R161, R162 (ADD I, Vx; LD F, Vx; decisions D16, D17): no flag; only the low nibble selects the
glyph. -/
def Obligations.IndexAddAndGlyph : Prop :=
  ∀ (x : Reg) (s : State),
    (∃ t, exec (.addI x) s = .next t ∧ t.i.toNat = (s.i.toNat + (s.readV x).toNat) % 2 ^ 16 ∧ t.pc = s.pc + 2 ∧
      s.Frame t { index := true }) ∧
    (∃ t, exec (.ldF x) s = .next t ∧ t.i.toNat = 5 * ((s.readV x).toNat % 16) ∧ t.pc = s.pc + 2 ∧
      s.Frame t { index := true })

/-- 43_index_memory.md R164 (LD B, Vx): hundreds, tens and ones at I, I+1, I+2; I stays. -/
def Obligations.BcdStoresDigits : Prop :=
  ∀ (x : Reg) (s : State), s.Wf → InRange s.cfg s.i.toNat 3 →
    ∃ t, exec (.ldB x) s = .next t ∧
      (t.readAddr (byteAddr s.cfg s.i.toNat 0)).toNat = (s.readV x).toNat / 100 ∧
      (t.readAddr (byteAddr s.cfg s.i.toNat 1)).toNat = (s.readV x).toNat / 10 % 10 ∧
      (t.readAddr (byteAddr s.cfg s.i.toNat 2)).toNat = (s.readV x).toNat % 10 ∧
      t.pc = s.pc + 2 ∧ s.Frame t { stores := accessed s.cfg s.i.toNat 3 }

/-- 43_index_memory.md R165 (LD [I], Vx; decision D14): V0 to VX, inclusive, at I; I moves only under
LOADSTORE_INCREMENTS_I. -/
def Obligations.BulkStoreWritesRegisters : Prop :=
  ∀ (x : Reg) (s : State), s.Wf → InRange s.cfg s.i.toNat (x.toNat + 1) →
    ∃ t, exec (.ldStore x) s = .next t ∧
      (∀ k : Reg, k.toNat ≤ x.toNat → t.readAddr (byteAddr s.cfg s.i.toNat k.toNat) = s.readV k) ∧
      t.i.toNat = (if s.cfg.loadstoreIncrementsI then (s.i.toNat + x.toNat + 1) % 2 ^ 16 else s.i.toNat) ∧
      t.pc = s.pc + 2 ∧ s.Frame t { stores := accessed s.cfg s.i.toNat (x.toNat + 1), index := true }

/-- 43_index_memory.md R166 (LD Vx, [I]; decision D14): V0 to VX, inclusive, from I; I moves only under
LOADSTORE_INCREMENTS_I. -/
def Obligations.BulkLoadReadsRegisters : Prop :=
  ∀ (x : Reg) (s : State), InRange s.cfg s.i.toNat (x.toNat + 1) →
    ∃ t, exec (.ldLoad x) s = .next t ∧
      (∀ k : Reg, k.toNat ≤ x.toNat → t.readV k = s.readAddr (byteAddr s.cfg s.i.toNat k.toNat)) ∧
      t.i.toNat = (if s.cfg.loadstoreIncrementsI then (s.i.toNat + x.toNat + 1) % 2 ^ 16 else s.i.toNat) ∧
      t.pc = s.pc + 2 ∧ s.Frame t { regs := firstRegs (x.toNat + 1), index := true }

/-- 20_memory.md R53, R54 (decision D2): under `check`, an access through I that ends above 0xFFF raises
MemoryAccessOutOfRange(addr, max(I, 0x1000)) before any write. -/
def Obligations.IndexAccessOutOfRange : Prop :=
  ∀ (s : State) (i : Instr) (n : Nat), s.cfg.addrPolicy = .check →
    (∃ x, i = .ldB x ∧ n = 3) ∨ (∃ x, i = .ldStore x ∧ n = x.toNat + 1) ∨ (∃ x, i = .ldLoad x ∧ n = x.toNat + 1) ∨
      (∃ x y h, i = .drw x y h ∧ n = h.toNat ∧ 1 ≤ n) →
    0xFFF < s.i.toNat + n - 1 →
    exec i s = .next { s with run := .halted,
                              result := .fatal (.memoryAccessOutOfRange s.pc (max s.i.toNat 0x1000)) }

/-- 20_memory.md R63 (decision D35): the fetch of the next step sees the bytes an instruction stored, with no fence. -/
def Obligations.NextFetchSeesStore : Prop :=
  ∀ s : State, s.Wf → s.cfg.addrPolicy = .check → s.pc.toNat + 3 ≤ 0xFFF → s.i = s.pc + 2 →
    ∃ t, exec (.ldStore 1) s = .next t ∧ t.pc = s.pc + 2 ∧ t.fetchWord = s.readV 0 ++ s.readV 1

/-! ### Display (44_display.md) -/

/-- 44_display.md R180 (CLS). -/
def Obligations.ClearScreen : Prop :=
  ∀ s : State, ∃ t, exec .cls s = .next t ∧ (∀ c < 64, ∀ r < 32, t.pixel c r = false) ∧ t.pc = s.pc + 2 ∧
    s.Frame t { fb := true }

/-- 44_display.md R181, R182 (DRW; decisions D19, D20, D21): every pixel is XORed with the sprite placed at
(V[X] mod 64, V[Y] mod 32), rows past the bottom clipped, columns past the right edge wrapped or clipped; VF ends as 1
exactly when a set pixel was under a set bit. -/
def Obligations.DrawXorsSprite : Prop :=
  ∀ (x y : Reg) (n : Nibble) (s : State), InRange s.cfg s.i.toNat n.toNat →
    ∃ t, exec (.drw x y n) s = .next t ∧
      (∀ c < 64, ∀ r < 32, t.pixel c r =
        (s.pixel c r ^^ s.spriteCovers ((s.readV x).toNat % 64) ((s.readV y).toNat % 32) n.toNat c r)) ∧
      (t.readV 0xF = 1 ↔ ∃ c r, c < 64 ∧ r < 32 ∧ s.pixel c r = true ∧
        s.spriteCovers ((s.readV x).toNat % 64) ((s.readV y).toNat % 32) n.toNat c r = true) ∧
      (t.readV 0xF = 0 ∨ t.readV 0xF = 1) ∧
      t.pc = s.pc + 2 ∧ s.Frame t { regs := [0xF], fb := true }

/-- 44_display.md R181: drawing the same sprite twice at the same place restores the framebuffer; the second draw sets VF
exactly when the sprite has a set bit on a pixel that was clear at first. (The rule's corner case says VF = 1 for any
set bit on the screen, which its own pseudocode gives when the pixel was clear at first: log 16.) -/
def Obligations.DrawTwiceRestores : Prop :=
  ∀ (x y : Reg) (n : Nibble) (s t : State), InRange s.cfg s.i.toNat n.toNat →
    exec (.drw x y n) s = .next t → t.readV x = s.readV x → t.readV y = s.readV y →
    ∃ u, exec (.drw x y n) t = .next u ∧ u.fb = s.fb ∧
      (u.readV 0xF = 1 ↔ ∃ c r, c < 64 ∧ r < 32 ∧ s.pixel c r = false ∧
        s.spriteCovers ((s.readV x).toNat % 64) ((s.readV y).toNat % 32) n.toNat c r = true)

/-! ### Input (45_input.md) -/

/-- 45_input.md R190, R191 (SKP, SKNP; decision D18): the key is V[X] mod 16 in this step's vector. -/
def Obligations.SkipOnKeys : Prop :=
  ∀ (x : Reg) (s : State),
    (∃ t, exec (.skp x) s = .next t ∧
      t.pc = (if s.keys.getLsbD ((s.readV x).toNat % 16) then s.pc + 4 else s.pc + 2) ∧ s.Frame t {}) ∧
    (∃ t, exec (.sknp x) s = .next t ∧
      t.pc = (if s.keys.getLsbD ((s.readV x).toNat % 16) then s.pc + 2 else s.pc + 4) ∧ s.Frame t {})

/-- 45_input.md R192 (LD Vx, K, entry; decision D22): the core waits, pc stays at the instruction, whatever keys are
down. -/
def Obligations.KeyWaitStarts : Prop :=
  ∀ (x : Reg) (s : State), ∃ t, exec (.ldVxK x) s = .next t ∧ t.run = .awaitingKey x ∧ t.pc = s.pc ∧
    t.result = .waiting ∧ t.prevKeys = s.keys ∧ s.Frame t { run := true }

/-- 45_input.md R193 (decisions D22, D23): a step in AwaitingKey(x) ends the wait with the lowest newly pressed key, and
without one changes only prev_keys and the answer. -/
def Obligations.KeyWaitEndsOnNewKey : Prop :=
  ∀ (x : Reg) (s : State), s.run = .awaitingKey x →
    ((∀ k < 16, s.keys.getLsbD k = true → s.prevKeys.getLsbD k = true) →
      runStep s = .next { s with prevKeys := s.keys, result := .waiting }) ∧
    (∀ k < 16, s.keys.getLsbD k = true → s.prevKeys.getLsbD k = false →
      (∀ j < k, s.keys.getLsbD j = true → s.prevKeys.getLsbD j = true) →
      ∃ t, runStep s = .next t ∧ (t.readV x).toNat = k ∧ t.pc = s.pc + 2 ∧ t.run = .ready ∧ t.prevKeys = s.keys ∧
        t.result = .ok ∧ s.Frame t { regs := [x], run := true })

/-! ### Timers (46_timers.md) and random (47_random.md) -/

/-- 46_timers.md R200, R201, R202 (LD Vx, DT; LD DT, Vx; LD ST, Vx); 10_state.md R37: a nonzero ST is sound_active. -/
def Obligations.TimerLoads : Prop :=
  ∀ (x : Reg) (s : State),
    (∃ t, exec (.ldVxDt x) s = .next t ∧ t.readV x = s.dt ∧ t.pc = s.pc + 2 ∧ s.Frame t { regs := [x] }) ∧
    (∃ t, exec (.ldDtVx x) s = .next t ∧ t.dt = s.readV x ∧ t.pc = s.pc + 2 ∧ s.Frame t { dt := true }) ∧
    (∃ t, exec (.ldStVx x) s = .next t ∧ t.st = s.readV x ∧ (t.soundActive = true ↔ s.readV x ≠ 0) ∧
      t.pc = s.pc + 2 ∧ s.Frame t { st := true })

/-- 47_random.md R210 (RND; decision D29): the step's random byte, whatever it is, masked by NN. -/
def Obligations.RandomMasksByte : Prop :=
  ∀ (x : Reg) (nn : Byte) (s : State), ∃ t, exec (.rnd x nn) s = .next t ∧
    (∀ k < 8, (t.readV x).getLsbD k = (s.rnd.getLsbD k && nn.getLsbD k)) ∧ t.pc = s.pc + 2 ∧
    s.Frame t { regs := [x] }

/-- 60_exceptions.md R235: tick decrements each nonzero timer by one, floors at 0, changes nothing else of the machine
and answers nothing; in every run state (R236, decision D25). -/
def Obligations.TickDecrementsTimers : Prop :=
  ∀ s : State, ∃ d e : Byte, runTransaction .tick s = .next { s with dt := d, st := e, result := .nothing } ∧
    d.toNat = s.dt.toNat - 1 ∧ e.toNat = s.st.toNat - 1

/-! ### Whole-machine rules over every instruction -/

/-- 41_control_flow.md to 47_random.md, 40_pipeline.md R110: an instruction that meets no error changes nothing outside
its footprint, so only FX15 and FX18 write a timer, only 00E0 and DXYN the framebuffer, only 2NNN and 00EE the stack,
only FX33 and FX55 memory. -/
def Obligations.EveryInstructionKeepsItsFrame : Prop :=
  ∀ (i : Instr) (s t : State), s.instrError i = none → exec i s = .next t → s.Frame t (s.footprint i)

/-- No instruction, whatever it meets, touches the configuration, its own inputs, the transactions to come or the count
of free inputs (log 1 to 4, 9). -/
def Obligations.NoInstructionTouchesHostFields : Prop :=
  ∀ (i : Instr) (s t : State), exec i s = .next t → s.SameHost t

/-- 10_state.md R39 (decision D29): only CXNN reads the random byte. -/
def Obligations.OnlyRandomReadsRnd : Prop :=
  ∀ (i : Instr) (s t : State) (r : Byte), (∀ x nn, i ≠ .rnd x nn) → exec i s = .next t →
    exec i { s with rnd := r } = .next { t with rnd := r }

/-- 10_state.md R38, R40 (decisions D23, D30): of the instructions as executed, and beside the key history that every step
writes, only EX9E and EXA1 depend on the key vector, and none on the key history. The wait that FX0A starts, which reads
both (45_input.md R193), is run by later steps and is no part of exec. -/
def Obligations.OnlyKeySkipsReadKeys : Prop :=
  ∀ (i : Instr) (s t : State) (k p : Keys), exec i s = .next t →
    ((∀ x, i ≠ .skp x ∧ i ≠ .sknp x) → ∃ u, exec i { s with keys := k } = .next u ∧
      { u with keys := 0, prevKeys := 0 } = { t with keys := 0, prevKeys := 0 }) ∧
    (∃ u, exec i { s with prevKeys := p } = .next u ∧ { u with prevKeys := 0 } = { t with prevKeys := 0 })

/-- 60_exceptions.md R226, R230: only reset and a successful initialize leave Halted. -/
def Obligations.OnlyReloadLeavesHalted : Prop :=
  ∀ s t : State, s.run = .halted → step s = .next t → t.run ≠ .halted →
    t.run = .ready ∧ ((∃ rest, s.pending = .reset :: rest) ∨
      (∃ image rest, s.pending = .load image :: rest ∧ image.length ≤ 3584))

/-- 60_exceptions.md R230: AwaitingKey(x) is entered only by a step in Ready that runs FX0A with that x, and a step in
it leaves it only for Ready. -/
def Obligations.RunStateTransitions : Prop :=
  ∀ s t : State, runStep s = .next t →
    (s.run = .ready → t.run = .ready ∨ t.run = .halted ∨
      ∃ x, t.run = .awaitingKey x ∧ decode s.fetchWord = .instr (.ldVxK x)) ∧
    (∀ x, s.run = .awaitingKey x → t.run = .awaitingKey x ∨ t.run = .ready) ∧
    (s.run = .halted → t.run = .halted)

/-! ### initialize and reset (70_reset_and_hazards.md) -/

/-- 10_state.md R22, R26, R28, R34, R36: the reset values, after a successful initialize and after reset; and in the state
the model calls reset, which is the model's choice of an initialize with an empty image (log 8). -/
def Obligations.ResetValues : Prop :=
  ∀ (s t : State) (image : List Byte), image.length ≤ 3584 →
    runTransaction (.load image) s = .next t ∨ runTransaction .reset s = .next t ∨ t = State.reset →
    (∀ x, t.readV x = 0) ∧ t.i = 0 ∧ t.pc = 0x200 ∧ t.dt = 0 ∧ t.st = 0 ∧
    (∀ c < 64, ∀ r < 32, t.pixel c r = false)

/-- 70_reset_and_hazards.md R250, R252, 20_memory.md R57 (decisions D5, D6, D32): initialize with an image that fits;
memory holds the font, zeros, the image from 0x200, zeros. A larger image is refused and the instance keeps its state. -/
def Obligations.InitializeLoadsOrRefusesImage : Prop :=
  ∀ (s : State) (image : List Byte),
    (image.length ≤ 3584 →
      ∃ t, runTransaction (.load image) s = .next t ∧ t.result = .ok ∧ t.image = image ∧ t.stack = [] ∧
        t.run = .ready ∧ t.prevKeys = 0 ∧ s.SameHost t ∧
        ∀ a < 4096, t.readAddr a =
          if h : a < 0x50 then s.cfg.font[a]'h else if a < 0x200 then 0 else image.getD (a - 0x200) 0) ∧
    (3584 < image.length → runTransaction (.load image) s = .next { s with result := .imageTooLarge })

/-- 70_reset_and_hazards.md R251, R253 (decision D33): reset leaves what initialize with the kept image leaves, and an
initialize after it changes nothing but the answer. -/
def Obligations.ResetIsInitializeWithKeptImage : Prop :=
  ∀ s : State, s.image.length ≤ 3584 →
    ∃ t, runTransaction .reset s = .next t ∧
      runTransaction (.load s.image) s = .next { t with result := .ok } ∧
      runTransaction (.load s.image) t = .next { t with result := .ok }

/-- 70_reset_and_hazards.md R250 (decision D6): after initialize with an empty image the first step raises
InvalidOpcode(0x200, 0x0000). -/
def Obligations.EmptyImageFirstStepInvalid : Prop :=
  ∀ (s t : State) (keys : Keys) (rnd : Byte), runTransaction (.load []) s = .next t →
    ∃ u, runTransaction (.step keys rnd) t = .next u ∧ u.run = .halted ∧
      u.result = .fatal (.invalidOpcode 0x200 0x0000) ∧ u.pc = 0x200

/-- 43_index_memory.md R162, 20_memory.md R55, R56 (decisions D5, D17): after initialize, FX29 points I at the five
bytes of the glyph of Vx's low nibble. -/
def Obligations.GlyphAddressPointsAtFont : Prop :=
  ∀ (s t u : State) (image : List Byte) (x : Reg), image.length ≤ 3584 →
    runTransaction (.load image) s = .next t → ∀ b : Byte, exec (.ldF x) (t.writeV x b) = .next u →
    ∀ k (hk : k < 5), u.readAddr (u.i.toNat + k) = s.cfg.font[5 * (b.toNat % 16) + k]'(by omega)

/-! ### Invariants -/

/-- 20_memory.md R50, 10_state.md R31, 70_reset_and_hazards.md R250: every step keeps memory canonical and inside 4096
bytes, the depth at most 16 and the image within 3584 bytes. -/
def Obligations.EveryStepKeepsWf : Prop := ∀ s t : State, s.Wf → step s = .next t → t.Wf

/-- 10_state.md R27 (decision D22): every step keeps pc at the FX0A being waited on while the core awaits a key. -/
def Obligations.EveryStepKeepsKeyWaitPc : Prop :=
  ∀ s t : State, s.WaitsAtKeyInstr → step s = .next t → t.WaitsAtKeyInstr

/-- 60_exceptions.md R222 (decision D26): the halt is precise: every step keeps it true that in Halted the instruction at
pc still meets an error. -/
def Obligations.EveryStepKeepsHaltPrecise : Prop :=
  ∀ s t : State, s.HaltedAtError → step s = .next t → t.HaltedAtError

/-- 10_state.md R29 (decisions D3, D4): under `check`, pc stays at most 0x10FE and return addresses at most 0x1000, so pc
never wraps at 16 bits. -/
def Obligations.EveryStepKeepsPcBounded : Prop :=
  ∀ s t : State, s.WaitsAtKeyInstr → s.PcBounded → step s = .next t → t.PcBounded

/-- The state after reset meets the four invariants. -/
def Obligations.ResetMeetsInvariants : Prop :=
  State.reset.Wf ∧ State.reset.WaitsAtKeyInstr ∧ State.reset.HaltedAtError ∧ State.reset.PcBounded
end

