-- ==== Sys2Proof/Laws/Decode.lean ====
section
/-! SUPPORT. The bits and the fields of an encoded word: each form gives back its parts. -/

namespace Sys2Proof

theorem getLsbD_wordXNN (f : BitVec 4) (x : Reg) (nn : Byte) (k : Nat) :
    (wordXNN f x nn).getLsbD k =
      if k < 8 then nn.getLsbD k else if k < 12 then x.getLsbD (k - 8) else f.getLsbD (k - 12) := by
  have : (wordXNN f x nn).getLsbD k = BitVec.getLsbD (w := 4 + 4 + 8) (f ++ x ++ nn) k := rfl
  rw [this, BitVec.getLsbD_append, BitVec.getLsbD_append]
  rcases Nat.lt_or_ge k 8 with h | h
  · simp [h]
  · have e : (k - 8 < 4) ↔ k < 12 := by omega
    have e' : k - 8 - 4 = k - 12 := by omega
    simp [Nat.not_lt.2 h, e, e']

theorem getLsbD_wordXYN (f : BitVec 4) (x y : Reg) (n : Nibble) (k : Nat) :
    (wordXYN f x y n).getLsbD k =
      if k < 4 then n.getLsbD k else if k < 8 then y.getLsbD (k - 4)
      else if k < 12 then x.getLsbD (k - 8) else f.getLsbD (k - 12) := by
  have : (wordXYN f x y n).getLsbD k = BitVec.getLsbD (w := 4 + 4 + 4 + 4) (f ++ x ++ y ++ n) k := rfl
  rw [this, BitVec.getLsbD_append, BitVec.getLsbD_append, BitVec.getLsbD_append]
  rcases Nat.lt_or_ge k 4 with h | h
  · simp [h]
  · have e : (k - 4 < 4) ↔ k < 8 := by omega
    have e' : k - 4 - 4 = k - 8 := by omega
    have e2 : (k - 8 < 4) ↔ k < 12 := by omega
    have e2' : k - 8 - 4 = k - 12 := by omega
    simp [Nat.not_lt.2 h, e, e', e2, e2']

theorem getLsbD_wordNNN (f : BitVec 4) (nnn : Addr) (k : Nat) :
    (wordNNN f nnn).getLsbD k = if k < 12 then nnn.getLsbD k else f.getLsbD (k - 12) := by
  have : (wordNNN f nnn).getLsbD k = BitVec.getLsbD (w := 4 + 12) (f ++ nnn) k := rfl
  rw [this, BitVec.getLsbD_append]
@[simp] theorem family_wordXNN (f : BitVec 4) (x : Reg) (nn : Byte) : family (wordXNN f x nn) = f := by
  apply BitVec.eq_of_getLsbD_eq; intro k hk
  rw [family, BitVec.getLsbD_extractLsb', getLsbD_wordXNN]
  interval_cases k <;> simp

@[simp] theorem fieldX_wordXNN (f : BitVec 4) (x : Reg) (nn : Byte) : fieldX (wordXNN f x nn) = x := by
  apply BitVec.eq_of_getLsbD_eq; intro k hk
  rw [fieldX, BitVec.getLsbD_extractLsb', getLsbD_wordXNN]
  interval_cases k <;> simp

@[simp] theorem fieldNN_wordXNN (f : BitVec 4) (x : Reg) (nn : Byte) : fieldNN (wordXNN f x nn) = nn := by
  apply BitVec.eq_of_getLsbD_eq; intro k hk
  rw [fieldNN, BitVec.getLsbD_extractLsb', getLsbD_wordXNN]
  interval_cases k <;> simp

@[simp] theorem family_wordXYN (f : BitVec 4) (x y : Reg) (n : Nibble) : family (wordXYN f x y n) = f := by
  apply BitVec.eq_of_getLsbD_eq; intro k hk
  rw [family, BitVec.getLsbD_extractLsb', getLsbD_wordXYN]
  interval_cases k <;> simp

@[simp] theorem fieldX_wordXYN (f : BitVec 4) (x y : Reg) (n : Nibble) : fieldX (wordXYN f x y n) = x := by
  apply BitVec.eq_of_getLsbD_eq; intro k hk
  rw [fieldX, BitVec.getLsbD_extractLsb', getLsbD_wordXYN]
  interval_cases k <;> simp

@[simp] theorem fieldY_wordXYN (f : BitVec 4) (x y : Reg) (n : Nibble) : fieldY (wordXYN f x y n) = y := by
  apply BitVec.eq_of_getLsbD_eq; intro k hk
  rw [fieldY, BitVec.getLsbD_extractLsb', getLsbD_wordXYN]
  interval_cases k <;> simp

@[simp] theorem fieldN_wordXYN (f : BitVec 4) (x y : Reg) (n : Nibble) : fieldN (wordXYN f x y n) = n := by
  apply BitVec.eq_of_getLsbD_eq; intro k hk
  rw [fieldN, BitVec.getLsbD_extractLsb', getLsbD_wordXYN]
  interval_cases k <;> simp

@[simp] theorem family_wordNNN (f : BitVec 4) (nnn : Addr) : family (wordNNN f nnn) = f := by
  apply BitVec.eq_of_getLsbD_eq; intro k hk
  rw [family, BitVec.getLsbD_extractLsb', getLsbD_wordNNN]
  interval_cases k <;> simp

@[simp] theorem fieldNNN_wordNNN (f : BitVec 4) (nnn : Addr) : fieldNNN (wordNNN f nnn) = nnn := by
  apply BitVec.eq_of_getLsbD_eq; intro k hk
  rw [fieldNNN, BitVec.getLsbD_extractLsb', getLsbD_wordNNN]
  interval_cases k <;> simp

end Sys2Proof
end

