-- ==== Sys2Proof/Laws/State.lean ====
section
/-! SUPPORT. What each update of the state does to each field, so that no later proof unfolds one. -/

namespace Sys2Proof.Machine

/-! ### writeV -/

@[simp] theorem State.writeV_mem (s : State) (x : Reg) (b : Byte) : (s.writeV x b).mem = s.mem := rfl
@[simp] theorem State.writeV_v (s : State) (x : Reg) (b : Byte) : (s.writeV x b).v = s.v.set x.toNat b x.isLt := rfl
@[simp] theorem State.writeV_i (s : State) (x : Reg) (b : Byte) : (s.writeV x b).i = s.i := rfl
@[simp] theorem State.writeV_pc (s : State) (x : Reg) (b : Byte) : (s.writeV x b).pc = s.pc := rfl
@[simp] theorem State.writeV_stack (s : State) (x : Reg) (b : Byte) : (s.writeV x b).stack = s.stack := rfl
@[simp] theorem State.writeV_dt (s : State) (x : Reg) (b : Byte) : (s.writeV x b).dt = s.dt := rfl
@[simp] theorem State.writeV_st (s : State) (x : Reg) (b : Byte) : (s.writeV x b).st = s.st := rfl
@[simp] theorem State.writeV_fb (s : State) (x : Reg) (b : Byte) : (s.writeV x b).fb = s.fb := rfl
@[simp] theorem State.writeV_run (s : State) (x : Reg) (b : Byte) : (s.writeV x b).run = s.run := rfl
@[simp] theorem State.writeV_prevKeys (s : State) (x : Reg) (b : Byte) : (s.writeV x b).prevKeys = s.prevKeys := rfl
@[simp] theorem State.writeV_image (s : State) (x : Reg) (b : Byte) : (s.writeV x b).image = s.image := rfl
@[simp] theorem State.writeV_cfg (s : State) (x : Reg) (b : Byte) : (s.writeV x b).cfg = s.cfg := rfl
@[simp] theorem State.writeV_keys (s : State) (x : Reg) (b : Byte) : (s.writeV x b).keys = s.keys := rfl
@[simp] theorem State.writeV_rnd (s : State) (x : Reg) (b : Byte) : (s.writeV x b).rnd = s.rnd := rfl
@[simp] theorem State.writeV_result (s : State) (x : Reg) (b : Byte) : (s.writeV x b).result = s.result := rfl
@[simp] theorem State.writeV_pending (s : State) (x : Reg) (b : Byte) : (s.writeV x b).pending = s.pending := rfl
@[simp] theorem State.writeV_draws (s : State) (x : Reg) (b : Byte) : (s.writeV x b).draws = s.draws := rfl
@[simp] theorem State.writeV_readAddr (s : State) (x : Reg) (b : Byte) (q : Nat) : (s.writeV x b).readAddr q = s.readAddr q := rfl
@[simp] theorem State.writeV_readByte (s : State) (x : Reg) (b : Byte) (p q : Nat) : (s.writeV x b).readByte p q = s.readByte p q := rfl

/-! ### setI -/

@[simp] theorem State.setI_mem (s : State) (w : Word) : (s.setI w).mem = s.mem := rfl
@[simp] theorem State.setI_v (s : State) (w : Word) : (s.setI w).v = s.v := rfl
@[simp] theorem State.setI_i (s : State) (w : Word) : (s.setI w).i = w := rfl
@[simp] theorem State.setI_pc (s : State) (w : Word) : (s.setI w).pc = s.pc := rfl
@[simp] theorem State.setI_stack (s : State) (w : Word) : (s.setI w).stack = s.stack := rfl
@[simp] theorem State.setI_dt (s : State) (w : Word) : (s.setI w).dt = s.dt := rfl
@[simp] theorem State.setI_st (s : State) (w : Word) : (s.setI w).st = s.st := rfl
@[simp] theorem State.setI_fb (s : State) (w : Word) : (s.setI w).fb = s.fb := rfl
@[simp] theorem State.setI_run (s : State) (w : Word) : (s.setI w).run = s.run := rfl
@[simp] theorem State.setI_prevKeys (s : State) (w : Word) : (s.setI w).prevKeys = s.prevKeys := rfl
@[simp] theorem State.setI_image (s : State) (w : Word) : (s.setI w).image = s.image := rfl
@[simp] theorem State.setI_cfg (s : State) (w : Word) : (s.setI w).cfg = s.cfg := rfl
@[simp] theorem State.setI_keys (s : State) (w : Word) : (s.setI w).keys = s.keys := rfl
@[simp] theorem State.setI_rnd (s : State) (w : Word) : (s.setI w).rnd = s.rnd := rfl
@[simp] theorem State.setI_result (s : State) (w : Word) : (s.setI w).result = s.result := rfl
@[simp] theorem State.setI_pending (s : State) (w : Word) : (s.setI w).pending = s.pending := rfl
@[simp] theorem State.setI_draws (s : State) (w : Word) : (s.setI w).draws = s.draws := rfl
@[simp] theorem State.setI_readV (s : State) (w : Word) (y : Reg) : (s.setI w).readV y = s.readV y := rfl
@[simp] theorem State.setI_readAddr (s : State) (w : Word) (q : Nat) : (s.setI w).readAddr q = s.readAddr q := rfl
@[simp] theorem State.setI_readByte (s : State) (w : Word) (p q : Nat) : (s.setI w).readByte p q = s.readByte p q := rfl

/-! ### setPc -/

@[simp] theorem State.setPc_mem (s : State) (w : Word) : (s.setPc w).mem = s.mem := rfl
@[simp] theorem State.setPc_v (s : State) (w : Word) : (s.setPc w).v = s.v := rfl
@[simp] theorem State.setPc_i (s : State) (w : Word) : (s.setPc w).i = s.i := rfl
@[simp] theorem State.setPc_pc (s : State) (w : Word) : (s.setPc w).pc = w := rfl
@[simp] theorem State.setPc_stack (s : State) (w : Word) : (s.setPc w).stack = s.stack := rfl
@[simp] theorem State.setPc_dt (s : State) (w : Word) : (s.setPc w).dt = s.dt := rfl
@[simp] theorem State.setPc_st (s : State) (w : Word) : (s.setPc w).st = s.st := rfl
@[simp] theorem State.setPc_fb (s : State) (w : Word) : (s.setPc w).fb = s.fb := rfl
@[simp] theorem State.setPc_run (s : State) (w : Word) : (s.setPc w).run = s.run := rfl
@[simp] theorem State.setPc_prevKeys (s : State) (w : Word) : (s.setPc w).prevKeys = s.prevKeys := rfl
@[simp] theorem State.setPc_image (s : State) (w : Word) : (s.setPc w).image = s.image := rfl
@[simp] theorem State.setPc_cfg (s : State) (w : Word) : (s.setPc w).cfg = s.cfg := rfl
@[simp] theorem State.setPc_keys (s : State) (w : Word) : (s.setPc w).keys = s.keys := rfl
@[simp] theorem State.setPc_rnd (s : State) (w : Word) : (s.setPc w).rnd = s.rnd := rfl
@[simp] theorem State.setPc_result (s : State) (w : Word) : (s.setPc w).result = s.result := rfl
@[simp] theorem State.setPc_pending (s : State) (w : Word) : (s.setPc w).pending = s.pending := rfl
@[simp] theorem State.setPc_draws (s : State) (w : Word) : (s.setPc w).draws = s.draws := rfl
@[simp] theorem State.setPc_readV (s : State) (w : Word) (y : Reg) : (s.setPc w).readV y = s.readV y := rfl
@[simp] theorem State.setPc_readAddr (s : State) (w : Word) (q : Nat) : (s.setPc w).readAddr q = s.readAddr q := rfl
@[simp] theorem State.setPc_readByte (s : State) (w : Word) (p q : Nat) : (s.setPc w).readByte p q = s.readByte p q := rfl

/-! ### setDt -/

@[simp] theorem State.setDt_mem (s : State) (b : Byte) : (s.setDt b).mem = s.mem := rfl
@[simp] theorem State.setDt_v (s : State) (b : Byte) : (s.setDt b).v = s.v := rfl
@[simp] theorem State.setDt_i (s : State) (b : Byte) : (s.setDt b).i = s.i := rfl
@[simp] theorem State.setDt_pc (s : State) (b : Byte) : (s.setDt b).pc = s.pc := rfl
@[simp] theorem State.setDt_stack (s : State) (b : Byte) : (s.setDt b).stack = s.stack := rfl
@[simp] theorem State.setDt_dt (s : State) (b : Byte) : (s.setDt b).dt = b := rfl
@[simp] theorem State.setDt_st (s : State) (b : Byte) : (s.setDt b).st = s.st := rfl
@[simp] theorem State.setDt_fb (s : State) (b : Byte) : (s.setDt b).fb = s.fb := rfl
@[simp] theorem State.setDt_run (s : State) (b : Byte) : (s.setDt b).run = s.run := rfl
@[simp] theorem State.setDt_prevKeys (s : State) (b : Byte) : (s.setDt b).prevKeys = s.prevKeys := rfl
@[simp] theorem State.setDt_image (s : State) (b : Byte) : (s.setDt b).image = s.image := rfl
@[simp] theorem State.setDt_cfg (s : State) (b : Byte) : (s.setDt b).cfg = s.cfg := rfl
@[simp] theorem State.setDt_keys (s : State) (b : Byte) : (s.setDt b).keys = s.keys := rfl
@[simp] theorem State.setDt_rnd (s : State) (b : Byte) : (s.setDt b).rnd = s.rnd := rfl
@[simp] theorem State.setDt_result (s : State) (b : Byte) : (s.setDt b).result = s.result := rfl
@[simp] theorem State.setDt_pending (s : State) (b : Byte) : (s.setDt b).pending = s.pending := rfl
@[simp] theorem State.setDt_draws (s : State) (b : Byte) : (s.setDt b).draws = s.draws := rfl
@[simp] theorem State.setDt_readV (s : State) (b : Byte) (y : Reg) : (s.setDt b).readV y = s.readV y := rfl
@[simp] theorem State.setDt_readAddr (s : State) (b : Byte) (q : Nat) : (s.setDt b).readAddr q = s.readAddr q := rfl
@[simp] theorem State.setDt_readByte (s : State) (b : Byte) (p q : Nat) : (s.setDt b).readByte p q = s.readByte p q := rfl

/-! ### setSt -/

@[simp] theorem State.setSt_mem (s : State) (b : Byte) : (s.setSt b).mem = s.mem := rfl
@[simp] theorem State.setSt_v (s : State) (b : Byte) : (s.setSt b).v = s.v := rfl
@[simp] theorem State.setSt_i (s : State) (b : Byte) : (s.setSt b).i = s.i := rfl
@[simp] theorem State.setSt_pc (s : State) (b : Byte) : (s.setSt b).pc = s.pc := rfl
@[simp] theorem State.setSt_stack (s : State) (b : Byte) : (s.setSt b).stack = s.stack := rfl
@[simp] theorem State.setSt_dt (s : State) (b : Byte) : (s.setSt b).dt = s.dt := rfl
@[simp] theorem State.setSt_st (s : State) (b : Byte) : (s.setSt b).st = b := rfl
@[simp] theorem State.setSt_fb (s : State) (b : Byte) : (s.setSt b).fb = s.fb := rfl
@[simp] theorem State.setSt_run (s : State) (b : Byte) : (s.setSt b).run = s.run := rfl
@[simp] theorem State.setSt_prevKeys (s : State) (b : Byte) : (s.setSt b).prevKeys = s.prevKeys := rfl
@[simp] theorem State.setSt_image (s : State) (b : Byte) : (s.setSt b).image = s.image := rfl
@[simp] theorem State.setSt_cfg (s : State) (b : Byte) : (s.setSt b).cfg = s.cfg := rfl
@[simp] theorem State.setSt_keys (s : State) (b : Byte) : (s.setSt b).keys = s.keys := rfl
@[simp] theorem State.setSt_rnd (s : State) (b : Byte) : (s.setSt b).rnd = s.rnd := rfl
@[simp] theorem State.setSt_result (s : State) (b : Byte) : (s.setSt b).result = s.result := rfl
@[simp] theorem State.setSt_pending (s : State) (b : Byte) : (s.setSt b).pending = s.pending := rfl
@[simp] theorem State.setSt_draws (s : State) (b : Byte) : (s.setSt b).draws = s.draws := rfl
@[simp] theorem State.setSt_readV (s : State) (b : Byte) (y : Reg) : (s.setSt b).readV y = s.readV y := rfl
@[simp] theorem State.setSt_readAddr (s : State) (b : Byte) (q : Nat) : (s.setSt b).readAddr q = s.readAddr q := rfl
@[simp] theorem State.setSt_readByte (s : State) (b : Byte) (p q : Nat) : (s.setSt b).readByte p q = s.readByte p q := rfl

/-! ### setFb -/

@[simp] theorem State.setFb_mem (s : State) (f : Framebuffer) : (s.setFb f).mem = s.mem := rfl
@[simp] theorem State.setFb_v (s : State) (f : Framebuffer) : (s.setFb f).v = s.v := rfl
@[simp] theorem State.setFb_i (s : State) (f : Framebuffer) : (s.setFb f).i = s.i := rfl
@[simp] theorem State.setFb_pc (s : State) (f : Framebuffer) : (s.setFb f).pc = s.pc := rfl
@[simp] theorem State.setFb_stack (s : State) (f : Framebuffer) : (s.setFb f).stack = s.stack := rfl
@[simp] theorem State.setFb_dt (s : State) (f : Framebuffer) : (s.setFb f).dt = s.dt := rfl
@[simp] theorem State.setFb_st (s : State) (f : Framebuffer) : (s.setFb f).st = s.st := rfl
@[simp] theorem State.setFb_fb (s : State) (f : Framebuffer) : (s.setFb f).fb = f := rfl
@[simp] theorem State.setFb_run (s : State) (f : Framebuffer) : (s.setFb f).run = s.run := rfl
@[simp] theorem State.setFb_prevKeys (s : State) (f : Framebuffer) : (s.setFb f).prevKeys = s.prevKeys := rfl
@[simp] theorem State.setFb_image (s : State) (f : Framebuffer) : (s.setFb f).image = s.image := rfl
@[simp] theorem State.setFb_cfg (s : State) (f : Framebuffer) : (s.setFb f).cfg = s.cfg := rfl
@[simp] theorem State.setFb_keys (s : State) (f : Framebuffer) : (s.setFb f).keys = s.keys := rfl
@[simp] theorem State.setFb_rnd (s : State) (f : Framebuffer) : (s.setFb f).rnd = s.rnd := rfl
@[simp] theorem State.setFb_result (s : State) (f : Framebuffer) : (s.setFb f).result = s.result := rfl
@[simp] theorem State.setFb_pending (s : State) (f : Framebuffer) : (s.setFb f).pending = s.pending := rfl
@[simp] theorem State.setFb_draws (s : State) (f : Framebuffer) : (s.setFb f).draws = s.draws := rfl
@[simp] theorem State.setFb_readV (s : State) (f : Framebuffer) (y : Reg) : (s.setFb f).readV y = s.readV y := rfl
@[simp] theorem State.setFb_readAddr (s : State) (f : Framebuffer) (q : Nat) : (s.setFb f).readAddr q = s.readAddr q := rfl
@[simp] theorem State.setFb_readByte (s : State) (f : Framebuffer) (p q : Nat) : (s.setFb f).readByte p q = s.readByte p q := rfl

/-! ### setRun -/

@[simp] theorem State.setRun_mem (s : State) (r : RunState) : (s.setRun r).mem = s.mem := rfl
@[simp] theorem State.setRun_v (s : State) (r : RunState) : (s.setRun r).v = s.v := rfl
@[simp] theorem State.setRun_i (s : State) (r : RunState) : (s.setRun r).i = s.i := rfl
@[simp] theorem State.setRun_pc (s : State) (r : RunState) : (s.setRun r).pc = s.pc := rfl
@[simp] theorem State.setRun_stack (s : State) (r : RunState) : (s.setRun r).stack = s.stack := rfl
@[simp] theorem State.setRun_dt (s : State) (r : RunState) : (s.setRun r).dt = s.dt := rfl
@[simp] theorem State.setRun_st (s : State) (r : RunState) : (s.setRun r).st = s.st := rfl
@[simp] theorem State.setRun_fb (s : State) (r : RunState) : (s.setRun r).fb = s.fb := rfl
@[simp] theorem State.setRun_run (s : State) (r : RunState) : (s.setRun r).run = r := rfl
@[simp] theorem State.setRun_prevKeys (s : State) (r : RunState) : (s.setRun r).prevKeys = s.prevKeys := rfl
@[simp] theorem State.setRun_image (s : State) (r : RunState) : (s.setRun r).image = s.image := rfl
@[simp] theorem State.setRun_cfg (s : State) (r : RunState) : (s.setRun r).cfg = s.cfg := rfl
@[simp] theorem State.setRun_keys (s : State) (r : RunState) : (s.setRun r).keys = s.keys := rfl
@[simp] theorem State.setRun_rnd (s : State) (r : RunState) : (s.setRun r).rnd = s.rnd := rfl
@[simp] theorem State.setRun_result (s : State) (r : RunState) : (s.setRun r).result = s.result := rfl
@[simp] theorem State.setRun_pending (s : State) (r : RunState) : (s.setRun r).pending = s.pending := rfl
@[simp] theorem State.setRun_draws (s : State) (r : RunState) : (s.setRun r).draws = s.draws := rfl
@[simp] theorem State.setRun_readV (s : State) (r : RunState) (y : Reg) : (s.setRun r).readV y = s.readV y := rfl
@[simp] theorem State.setRun_readAddr (s : State) (r : RunState) (q : Nat) : (s.setRun r).readAddr q = s.readAddr q := rfl
@[simp] theorem State.setRun_readByte (s : State) (r : RunState) (p q : Nat) : (s.setRun r).readByte p q = s.readByte p q := rfl

/-! ### commit -/

@[simp] theorem State.commit_mem (s : State) (r : Result) : (s.commit r).mem = s.mem := rfl
@[simp] theorem State.commit_v (s : State) (r : Result) : (s.commit r).v = s.v := rfl
@[simp] theorem State.commit_i (s : State) (r : Result) : (s.commit r).i = s.i := rfl
@[simp] theorem State.commit_pc (s : State) (r : Result) : (s.commit r).pc = s.pc := rfl
@[simp] theorem State.commit_stack (s : State) (r : Result) : (s.commit r).stack = s.stack := rfl
@[simp] theorem State.commit_dt (s : State) (r : Result) : (s.commit r).dt = s.dt := rfl
@[simp] theorem State.commit_st (s : State) (r : Result) : (s.commit r).st = s.st := rfl
@[simp] theorem State.commit_fb (s : State) (r : Result) : (s.commit r).fb = s.fb := rfl
@[simp] theorem State.commit_run (s : State) (r : Result) : (s.commit r).run = s.run := rfl
@[simp] theorem State.commit_prevKeys (s : State) (r : Result) : (s.commit r).prevKeys = s.keys := rfl
@[simp] theorem State.commit_image (s : State) (r : Result) : (s.commit r).image = s.image := rfl
@[simp] theorem State.commit_cfg (s : State) (r : Result) : (s.commit r).cfg = s.cfg := rfl
@[simp] theorem State.commit_keys (s : State) (r : Result) : (s.commit r).keys = s.keys := rfl
@[simp] theorem State.commit_rnd (s : State) (r : Result) : (s.commit r).rnd = s.rnd := rfl
@[simp] theorem State.commit_result (s : State) (r : Result) : (s.commit r).result = r := rfl
@[simp] theorem State.commit_pending (s : State) (r : Result) : (s.commit r).pending = s.pending := rfl
@[simp] theorem State.commit_draws (s : State) (r : Result) : (s.commit r).draws = s.draws := rfl
@[simp] theorem State.commit_readV (s : State) (r : Result) (y : Reg) : (s.commit r).readV y = s.readV y := rfl
@[simp] theorem State.commit_readAddr (s : State) (r : Result) (q : Nat) : (s.commit r).readAddr q = s.readAddr q := rfl
@[simp] theorem State.commit_readByte (s : State) (r : Result) (p q : Nat) : (s.commit r).readByte p q = s.readByte p q := rfl

/-! ### halt -/

@[simp] theorem State.halt_mem (s : State) (e : FatalError) : (s.halt e).mem = s.mem := rfl
@[simp] theorem State.halt_v (s : State) (e : FatalError) : (s.halt e).v = s.v := rfl
@[simp] theorem State.halt_i (s : State) (e : FatalError) : (s.halt e).i = s.i := rfl
@[simp] theorem State.halt_pc (s : State) (e : FatalError) : (s.halt e).pc = s.pc := rfl
@[simp] theorem State.halt_stack (s : State) (e : FatalError) : (s.halt e).stack = s.stack := rfl
@[simp] theorem State.halt_dt (s : State) (e : FatalError) : (s.halt e).dt = s.dt := rfl
@[simp] theorem State.halt_st (s : State) (e : FatalError) : (s.halt e).st = s.st := rfl
@[simp] theorem State.halt_fb (s : State) (e : FatalError) : (s.halt e).fb = s.fb := rfl
@[simp] theorem State.halt_run (s : State) (e : FatalError) : (s.halt e).run = .halted := rfl
@[simp] theorem State.halt_prevKeys (s : State) (e : FatalError) : (s.halt e).prevKeys = s.prevKeys := rfl
@[simp] theorem State.halt_image (s : State) (e : FatalError) : (s.halt e).image = s.image := rfl
@[simp] theorem State.halt_cfg (s : State) (e : FatalError) : (s.halt e).cfg = s.cfg := rfl
@[simp] theorem State.halt_keys (s : State) (e : FatalError) : (s.halt e).keys = s.keys := rfl
@[simp] theorem State.halt_rnd (s : State) (e : FatalError) : (s.halt e).rnd = s.rnd := rfl
@[simp] theorem State.halt_result (s : State) (e : FatalError) : (s.halt e).result = .fatal e := rfl
@[simp] theorem State.halt_pending (s : State) (e : FatalError) : (s.halt e).pending = s.pending := rfl
@[simp] theorem State.halt_draws (s : State) (e : FatalError) : (s.halt e).draws = s.draws := rfl
@[simp] theorem State.halt_readV (s : State) (e : FatalError) (y : Reg) : (s.halt e).readV y = s.readV y := rfl
@[simp] theorem State.halt_readAddr (s : State) (e : FatalError) (q : Nat) : (s.halt e).readAddr q = s.readAddr q := rfl
@[simp] theorem State.halt_readByte (s : State) (e : FatalError) (p q : Nat) : (s.halt e).readByte p q = s.readByte p q := rfl

/-! ### advance -/

@[simp] theorem State.advance_mem (s : State) : (s.advance).mem = s.mem := rfl
@[simp] theorem State.advance_v (s : State) : (s.advance).v = s.v := rfl
@[simp] theorem State.advance_i (s : State) : (s.advance).i = s.i := rfl
@[simp] theorem State.advance_pc (s : State) : (s.advance).pc = s.pc + 2 := rfl
@[simp] theorem State.advance_stack (s : State) : (s.advance).stack = s.stack := rfl
@[simp] theorem State.advance_dt (s : State) : (s.advance).dt = s.dt := rfl
@[simp] theorem State.advance_st (s : State) : (s.advance).st = s.st := rfl
@[simp] theorem State.advance_fb (s : State) : (s.advance).fb = s.fb := rfl
@[simp] theorem State.advance_run (s : State) : (s.advance).run = s.run := rfl
@[simp] theorem State.advance_prevKeys (s : State) : (s.advance).prevKeys = s.prevKeys := rfl
@[simp] theorem State.advance_image (s : State) : (s.advance).image = s.image := rfl
@[simp] theorem State.advance_cfg (s : State) : (s.advance).cfg = s.cfg := rfl
@[simp] theorem State.advance_keys (s : State) : (s.advance).keys = s.keys := rfl
@[simp] theorem State.advance_rnd (s : State) : (s.advance).rnd = s.rnd := rfl
@[simp] theorem State.advance_result (s : State) : (s.advance).result = s.result := rfl
@[simp] theorem State.advance_pending (s : State) : (s.advance).pending = s.pending := rfl
@[simp] theorem State.advance_draws (s : State) : (s.advance).draws = s.draws := rfl
@[simp] theorem State.advance_readV (s : State) (y : Reg) : (s.advance).readV y = s.readV y := rfl
@[simp] theorem State.advance_readAddr (s : State) (q : Nat) : (s.advance).readAddr q = s.readAddr q := rfl
@[simp] theorem State.advance_readByte (s : State) (p q : Nat) : (s.advance).readByte p q = s.readByte p q := rfl

/-! ### skipIf -/

@[simp] theorem State.skipIf_mem (s : State) (c : Bool) : (s.skipIf c).mem = s.mem := rfl
@[simp] theorem State.skipIf_v (s : State) (c : Bool) : (s.skipIf c).v = s.v := rfl
@[simp] theorem State.skipIf_i (s : State) (c : Bool) : (s.skipIf c).i = s.i := rfl
@[simp] theorem State.skipIf_pc (s : State) (c : Bool) : (s.skipIf c).pc = if c then s.pc + 2 else s.pc := rfl
@[simp] theorem State.skipIf_stack (s : State) (c : Bool) : (s.skipIf c).stack = s.stack := rfl
@[simp] theorem State.skipIf_dt (s : State) (c : Bool) : (s.skipIf c).dt = s.dt := rfl
@[simp] theorem State.skipIf_st (s : State) (c : Bool) : (s.skipIf c).st = s.st := rfl
@[simp] theorem State.skipIf_fb (s : State) (c : Bool) : (s.skipIf c).fb = s.fb := rfl
@[simp] theorem State.skipIf_run (s : State) (c : Bool) : (s.skipIf c).run = s.run := rfl
@[simp] theorem State.skipIf_prevKeys (s : State) (c : Bool) : (s.skipIf c).prevKeys = s.prevKeys := rfl
@[simp] theorem State.skipIf_image (s : State) (c : Bool) : (s.skipIf c).image = s.image := rfl
@[simp] theorem State.skipIf_cfg (s : State) (c : Bool) : (s.skipIf c).cfg = s.cfg := rfl
@[simp] theorem State.skipIf_keys (s : State) (c : Bool) : (s.skipIf c).keys = s.keys := rfl
@[simp] theorem State.skipIf_rnd (s : State) (c : Bool) : (s.skipIf c).rnd = s.rnd := rfl
@[simp] theorem State.skipIf_result (s : State) (c : Bool) : (s.skipIf c).result = s.result := rfl
@[simp] theorem State.skipIf_pending (s : State) (c : Bool) : (s.skipIf c).pending = s.pending := rfl
@[simp] theorem State.skipIf_draws (s : State) (c : Bool) : (s.skipIf c).draws = s.draws := rfl
@[simp] theorem State.skipIf_readV (s : State) (c : Bool) (y : Reg) : (s.skipIf c).readV y = s.readV y := rfl
@[simp] theorem State.skipIf_readAddr (s : State) (c : Bool) (q : Nat) : (s.skipIf c).readAddr q = s.readAddr q := rfl
@[simp] theorem State.skipIf_readByte (s : State) (c : Bool) (p q : Nat) : (s.skipIf c).readByte p q = s.readByte p q := rfl

/-! ### push -/

@[simp] theorem State.push_mem (s : State) (w : Word) : (s.push w).mem = s.mem := rfl
@[simp] theorem State.push_v (s : State) (w : Word) : (s.push w).v = s.v := rfl
@[simp] theorem State.push_i (s : State) (w : Word) : (s.push w).i = s.i := rfl
@[simp] theorem State.push_pc (s : State) (w : Word) : (s.push w).pc = s.pc := rfl
@[simp] theorem State.push_stack (s : State) (w : Word) : (s.push w).stack = s.stack ++ [w] := rfl
@[simp] theorem State.push_dt (s : State) (w : Word) : (s.push w).dt = s.dt := rfl
@[simp] theorem State.push_st (s : State) (w : Word) : (s.push w).st = s.st := rfl
@[simp] theorem State.push_fb (s : State) (w : Word) : (s.push w).fb = s.fb := rfl
@[simp] theorem State.push_run (s : State) (w : Word) : (s.push w).run = s.run := rfl
@[simp] theorem State.push_prevKeys (s : State) (w : Word) : (s.push w).prevKeys = s.prevKeys := rfl
@[simp] theorem State.push_image (s : State) (w : Word) : (s.push w).image = s.image := rfl
@[simp] theorem State.push_cfg (s : State) (w : Word) : (s.push w).cfg = s.cfg := rfl
@[simp] theorem State.push_keys (s : State) (w : Word) : (s.push w).keys = s.keys := rfl
@[simp] theorem State.push_rnd (s : State) (w : Word) : (s.push w).rnd = s.rnd := rfl
@[simp] theorem State.push_result (s : State) (w : Word) : (s.push w).result = s.result := rfl
@[simp] theorem State.push_pending (s : State) (w : Word) : (s.push w).pending = s.pending := rfl
@[simp] theorem State.push_draws (s : State) (w : Word) : (s.push w).draws = s.draws := rfl
@[simp] theorem State.push_readV (s : State) (w : Word) (y : Reg) : (s.push w).readV y = s.readV y := rfl
@[simp] theorem State.push_readAddr (s : State) (w : Word) (q : Nat) : (s.push w).readAddr q = s.readAddr q := rfl
@[simp] theorem State.push_readByte (s : State) (w : Word) (p q : Nat) : (s.push w).readByte p q = s.readByte p q := rfl

/-! ### dropTop -/

@[simp] theorem State.dropTop_mem (s : State) : (s.dropTop).mem = s.mem := rfl
@[simp] theorem State.dropTop_v (s : State) : (s.dropTop).v = s.v := rfl
@[simp] theorem State.dropTop_i (s : State) : (s.dropTop).i = s.i := rfl
@[simp] theorem State.dropTop_pc (s : State) : (s.dropTop).pc = s.pc := rfl
@[simp] theorem State.dropTop_stack (s : State) : (s.dropTop).stack = s.stack.dropLast := rfl
@[simp] theorem State.dropTop_dt (s : State) : (s.dropTop).dt = s.dt := rfl
@[simp] theorem State.dropTop_st (s : State) : (s.dropTop).st = s.st := rfl
@[simp] theorem State.dropTop_fb (s : State) : (s.dropTop).fb = s.fb := rfl
@[simp] theorem State.dropTop_run (s : State) : (s.dropTop).run = s.run := rfl
@[simp] theorem State.dropTop_prevKeys (s : State) : (s.dropTop).prevKeys = s.prevKeys := rfl
@[simp] theorem State.dropTop_image (s : State) : (s.dropTop).image = s.image := rfl
@[simp] theorem State.dropTop_cfg (s : State) : (s.dropTop).cfg = s.cfg := rfl
@[simp] theorem State.dropTop_keys (s : State) : (s.dropTop).keys = s.keys := rfl
@[simp] theorem State.dropTop_rnd (s : State) : (s.dropTop).rnd = s.rnd := rfl
@[simp] theorem State.dropTop_result (s : State) : (s.dropTop).result = s.result := rfl
@[simp] theorem State.dropTop_pending (s : State) : (s.dropTop).pending = s.pending := rfl
@[simp] theorem State.dropTop_draws (s : State) : (s.dropTop).draws = s.draws := rfl
@[simp] theorem State.dropTop_readV (s : State) (y : Reg) : (s.dropTop).readV y = s.readV y := rfl
@[simp] theorem State.dropTop_readAddr (s : State) (q : Nat) : (s.dropTop).readAddr q = s.readAddr q := rfl
@[simp] theorem State.dropTop_readByte (s : State) (p q : Nat) : (s.dropTop).readByte p q = s.readByte p q := rfl

/-! ### writeAddr -/

@[simp] theorem State.writeAddr_mem (s : State) (a : Nat) (b : Byte) : (s.writeAddr a b).mem = Memory.write (unlistedByte s.cfg.font) s.mem a b := rfl
@[simp] theorem State.writeAddr_v (s : State) (a : Nat) (b : Byte) : (s.writeAddr a b).v = s.v := rfl
@[simp] theorem State.writeAddr_i (s : State) (a : Nat) (b : Byte) : (s.writeAddr a b).i = s.i := rfl
@[simp] theorem State.writeAddr_pc (s : State) (a : Nat) (b : Byte) : (s.writeAddr a b).pc = s.pc := rfl
@[simp] theorem State.writeAddr_stack (s : State) (a : Nat) (b : Byte) : (s.writeAddr a b).stack = s.stack := rfl
@[simp] theorem State.writeAddr_dt (s : State) (a : Nat) (b : Byte) : (s.writeAddr a b).dt = s.dt := rfl
@[simp] theorem State.writeAddr_st (s : State) (a : Nat) (b : Byte) : (s.writeAddr a b).st = s.st := rfl
@[simp] theorem State.writeAddr_fb (s : State) (a : Nat) (b : Byte) : (s.writeAddr a b).fb = s.fb := rfl
@[simp] theorem State.writeAddr_run (s : State) (a : Nat) (b : Byte) : (s.writeAddr a b).run = s.run := rfl
@[simp] theorem State.writeAddr_prevKeys (s : State) (a : Nat) (b : Byte) : (s.writeAddr a b).prevKeys = s.prevKeys := rfl
@[simp] theorem State.writeAddr_image (s : State) (a : Nat) (b : Byte) : (s.writeAddr a b).image = s.image := rfl
@[simp] theorem State.writeAddr_cfg (s : State) (a : Nat) (b : Byte) : (s.writeAddr a b).cfg = s.cfg := rfl
@[simp] theorem State.writeAddr_keys (s : State) (a : Nat) (b : Byte) : (s.writeAddr a b).keys = s.keys := rfl
@[simp] theorem State.writeAddr_rnd (s : State) (a : Nat) (b : Byte) : (s.writeAddr a b).rnd = s.rnd := rfl
@[simp] theorem State.writeAddr_result (s : State) (a : Nat) (b : Byte) : (s.writeAddr a b).result = s.result := rfl
@[simp] theorem State.writeAddr_pending (s : State) (a : Nat) (b : Byte) : (s.writeAddr a b).pending = s.pending := rfl
@[simp] theorem State.writeAddr_draws (s : State) (a : Nat) (b : Byte) : (s.writeAddr a b).draws = s.draws := rfl
@[simp] theorem State.writeAddr_readV (s : State) (a : Nat) (b : Byte) (y : Reg) : (s.writeAddr a b).readV y = s.readV y := rfl

/-! ### writeByte -/

@[simp] theorem State.writeByte_mem (s : State) (a k : Nat) (b : Byte) : (s.writeByte a k b).mem = Memory.write (unlistedByte s.cfg.font) s.mem (byteAddr s.cfg a k) b := rfl
@[simp] theorem State.writeByte_v (s : State) (a k : Nat) (b : Byte) : (s.writeByte a k b).v = s.v := rfl
@[simp] theorem State.writeByte_i (s : State) (a k : Nat) (b : Byte) : (s.writeByte a k b).i = s.i := rfl
@[simp] theorem State.writeByte_pc (s : State) (a k : Nat) (b : Byte) : (s.writeByte a k b).pc = s.pc := rfl
@[simp] theorem State.writeByte_stack (s : State) (a k : Nat) (b : Byte) : (s.writeByte a k b).stack = s.stack := rfl
@[simp] theorem State.writeByte_dt (s : State) (a k : Nat) (b : Byte) : (s.writeByte a k b).dt = s.dt := rfl
@[simp] theorem State.writeByte_st (s : State) (a k : Nat) (b : Byte) : (s.writeByte a k b).st = s.st := rfl
@[simp] theorem State.writeByte_fb (s : State) (a k : Nat) (b : Byte) : (s.writeByte a k b).fb = s.fb := rfl
@[simp] theorem State.writeByte_run (s : State) (a k : Nat) (b : Byte) : (s.writeByte a k b).run = s.run := rfl
@[simp] theorem State.writeByte_prevKeys (s : State) (a k : Nat) (b : Byte) : (s.writeByte a k b).prevKeys = s.prevKeys := rfl
@[simp] theorem State.writeByte_image (s : State) (a k : Nat) (b : Byte) : (s.writeByte a k b).image = s.image := rfl
@[simp] theorem State.writeByte_cfg (s : State) (a k : Nat) (b : Byte) : (s.writeByte a k b).cfg = s.cfg := rfl
@[simp] theorem State.writeByte_keys (s : State) (a k : Nat) (b : Byte) : (s.writeByte a k b).keys = s.keys := rfl
@[simp] theorem State.writeByte_rnd (s : State) (a k : Nat) (b : Byte) : (s.writeByte a k b).rnd = s.rnd := rfl
@[simp] theorem State.writeByte_result (s : State) (a k : Nat) (b : Byte) : (s.writeByte a k b).result = s.result := rfl
@[simp] theorem State.writeByte_pending (s : State) (a k : Nat) (b : Byte) : (s.writeByte a k b).pending = s.pending := rfl
@[simp] theorem State.writeByte_draws (s : State) (a k : Nat) (b : Byte) : (s.writeByte a k b).draws = s.draws := rfl
@[simp] theorem State.writeByte_readV (s : State) (a k : Nat) (b : Byte) (y : Reg) : (s.writeByte a k b).readV y = s.readV y := rfl

/-! ### withInputs -/

@[simp] theorem State.withInputs_mem (s : State) (ks : Keys) (r : Byte) : (s.withInputs ks r).mem = s.mem := rfl
@[simp] theorem State.withInputs_v (s : State) (ks : Keys) (r : Byte) : (s.withInputs ks r).v = s.v := rfl
@[simp] theorem State.withInputs_i (s : State) (ks : Keys) (r : Byte) : (s.withInputs ks r).i = s.i := rfl
@[simp] theorem State.withInputs_pc (s : State) (ks : Keys) (r : Byte) : (s.withInputs ks r).pc = s.pc := rfl
@[simp] theorem State.withInputs_stack (s : State) (ks : Keys) (r : Byte) : (s.withInputs ks r).stack = s.stack := rfl
@[simp] theorem State.withInputs_dt (s : State) (ks : Keys) (r : Byte) : (s.withInputs ks r).dt = s.dt := rfl
@[simp] theorem State.withInputs_st (s : State) (ks : Keys) (r : Byte) : (s.withInputs ks r).st = s.st := rfl
@[simp] theorem State.withInputs_fb (s : State) (ks : Keys) (r : Byte) : (s.withInputs ks r).fb = s.fb := rfl
@[simp] theorem State.withInputs_run (s : State) (ks : Keys) (r : Byte) : (s.withInputs ks r).run = s.run := rfl
@[simp] theorem State.withInputs_prevKeys (s : State) (ks : Keys) (r : Byte) : (s.withInputs ks r).prevKeys = s.prevKeys := rfl
@[simp] theorem State.withInputs_image (s : State) (ks : Keys) (r : Byte) : (s.withInputs ks r).image = s.image := rfl
@[simp] theorem State.withInputs_cfg (s : State) (ks : Keys) (r : Byte) : (s.withInputs ks r).cfg = s.cfg := rfl
@[simp] theorem State.withInputs_keys (s : State) (ks : Keys) (r : Byte) : (s.withInputs ks r).keys = ks := rfl
@[simp] theorem State.withInputs_rnd (s : State) (ks : Keys) (r : Byte) : (s.withInputs ks r).rnd = r := rfl
@[simp] theorem State.withInputs_result (s : State) (ks : Keys) (r : Byte) : (s.withInputs ks r).result = s.result := rfl
@[simp] theorem State.withInputs_pending (s : State) (ks : Keys) (r : Byte) : (s.withInputs ks r).pending = s.pending := rfl
@[simp] theorem State.withInputs_draws (s : State) (ks : Keys) (r : Byte) : (s.withInputs ks r).draws = s.draws := rfl
@[simp] theorem State.withInputs_readV (s : State) (ks : Keys) (r : Byte) (y : Reg) : (s.withInputs ks r).readV y = s.readV y := rfl
@[simp] theorem State.withInputs_readAddr (s : State) (ks : Keys) (r : Byte) (q : Nat) : (s.withInputs ks r).readAddr q = s.readAddr q := rfl
@[simp] theorem State.withInputs_readByte (s : State) (ks : Keys) (r : Byte) (p q : Nat) : (s.withInputs ks r).readByte p q = s.readByte p q := rfl

/-! ### bumpI -/

@[simp] theorem State.bumpI_mem (s : State) (n : Nat) : (s.bumpI n).mem = s.mem := rfl
@[simp] theorem State.bumpI_v (s : State) (n : Nat) : (s.bumpI n).v = s.v := rfl
@[simp] theorem State.bumpI_i (s : State) (n : Nat) : (s.bumpI n).i = if s.cfg.loadstoreIncrementsI then s.i + BitVec.ofNat 16 n else s.i := rfl
@[simp] theorem State.bumpI_pc (s : State) (n : Nat) : (s.bumpI n).pc = s.pc := rfl
@[simp] theorem State.bumpI_stack (s : State) (n : Nat) : (s.bumpI n).stack = s.stack := rfl
@[simp] theorem State.bumpI_dt (s : State) (n : Nat) : (s.bumpI n).dt = s.dt := rfl
@[simp] theorem State.bumpI_st (s : State) (n : Nat) : (s.bumpI n).st = s.st := rfl
@[simp] theorem State.bumpI_fb (s : State) (n : Nat) : (s.bumpI n).fb = s.fb := rfl
@[simp] theorem State.bumpI_run (s : State) (n : Nat) : (s.bumpI n).run = s.run := rfl
@[simp] theorem State.bumpI_prevKeys (s : State) (n : Nat) : (s.bumpI n).prevKeys = s.prevKeys := rfl
@[simp] theorem State.bumpI_image (s : State) (n : Nat) : (s.bumpI n).image = s.image := rfl
@[simp] theorem State.bumpI_cfg (s : State) (n : Nat) : (s.bumpI n).cfg = s.cfg := rfl
@[simp] theorem State.bumpI_keys (s : State) (n : Nat) : (s.bumpI n).keys = s.keys := rfl
@[simp] theorem State.bumpI_rnd (s : State) (n : Nat) : (s.bumpI n).rnd = s.rnd := rfl
@[simp] theorem State.bumpI_result (s : State) (n : Nat) : (s.bumpI n).result = s.result := rfl
@[simp] theorem State.bumpI_pending (s : State) (n : Nat) : (s.bumpI n).pending = s.pending := rfl
@[simp] theorem State.bumpI_draws (s : State) (n : Nat) : (s.bumpI n).draws = s.draws := rfl
@[simp] theorem State.bumpI_readV (s : State) (n : Nat) (y : Reg) : (s.bumpI n).readV y = s.readV y := rfl
@[simp] theorem State.bumpI_readAddr (s : State) (n : Nat) (q : Nat) : (s.bumpI n).readAddr q = s.readAddr q := rfl
@[simp] theorem State.bumpI_readByte (s : State) (n : Nat) (p q : Nat) : (s.bumpI n).readByte p q = s.readByte p q := rfl

/-! ### writeWithFlag -/

@[simp] theorem State.writeWithFlag_mem (s : State) (x : Reg) (r f : Byte) : (s.writeWithFlag x r f).mem = s.mem := rfl
@[simp] theorem State.writeWithFlag_v (s : State) (x : Reg) (r f : Byte) : (s.writeWithFlag x r f).v = (s.v.set x.toNat r x.isLt).set regF.toNat f regF.isLt := rfl
@[simp] theorem State.writeWithFlag_i (s : State) (x : Reg) (r f : Byte) : (s.writeWithFlag x r f).i = s.i := rfl
@[simp] theorem State.writeWithFlag_pc (s : State) (x : Reg) (r f : Byte) : (s.writeWithFlag x r f).pc = s.pc := rfl
@[simp] theorem State.writeWithFlag_stack (s : State) (x : Reg) (r f : Byte) : (s.writeWithFlag x r f).stack = s.stack := rfl
@[simp] theorem State.writeWithFlag_dt (s : State) (x : Reg) (r f : Byte) : (s.writeWithFlag x r f).dt = s.dt := rfl
@[simp] theorem State.writeWithFlag_st (s : State) (x : Reg) (r f : Byte) : (s.writeWithFlag x r f).st = s.st := rfl
@[simp] theorem State.writeWithFlag_fb (s : State) (x : Reg) (r f : Byte) : (s.writeWithFlag x r f).fb = s.fb := rfl
@[simp] theorem State.writeWithFlag_run (s : State) (x : Reg) (r f : Byte) : (s.writeWithFlag x r f).run = s.run := rfl
@[simp] theorem State.writeWithFlag_prevKeys (s : State) (x : Reg) (r f : Byte) : (s.writeWithFlag x r f).prevKeys = s.prevKeys := rfl
@[simp] theorem State.writeWithFlag_image (s : State) (x : Reg) (r f : Byte) : (s.writeWithFlag x r f).image = s.image := rfl
@[simp] theorem State.writeWithFlag_cfg (s : State) (x : Reg) (r f : Byte) : (s.writeWithFlag x r f).cfg = s.cfg := rfl
@[simp] theorem State.writeWithFlag_keys (s : State) (x : Reg) (r f : Byte) : (s.writeWithFlag x r f).keys = s.keys := rfl
@[simp] theorem State.writeWithFlag_rnd (s : State) (x : Reg) (r f : Byte) : (s.writeWithFlag x r f).rnd = s.rnd := rfl
@[simp] theorem State.writeWithFlag_result (s : State) (x : Reg) (r f : Byte) : (s.writeWithFlag x r f).result = s.result := rfl
@[simp] theorem State.writeWithFlag_pending (s : State) (x : Reg) (r f : Byte) : (s.writeWithFlag x r f).pending = s.pending := rfl
@[simp] theorem State.writeWithFlag_draws (s : State) (x : Reg) (r f : Byte) : (s.writeWithFlag x r f).draws = s.draws := rfl
@[simp] theorem State.writeWithFlag_readAddr (s : State) (x : Reg) (r f : Byte) (q : Nat) : (s.writeWithFlag x r f).readAddr q = s.readAddr q := rfl
@[simp] theorem State.writeWithFlag_readByte (s : State) (x : Reg) (r f : Byte) (p q : Nat) : (s.writeWithFlag x r f).readByte p q = s.readByte p q := rfl

/-! ### Logic results, and the loads and stores of several registers: the fields they leave alone -/

theorem State.writeLogic_eq (s : State) (x : Reg) (r : Byte) :
    s.writeLogic x r = { s with v := (s.writeLogic x r).v } := by
  unfold State.writeLogic; split <;> rfl

theorem State.storeRegs_eq (s : State) (a n : Nat) : s.storeRegs a n = { s with mem := (s.storeRegs a n).mem } := by
  induction n with
  | zero => rfl
  | succ n ih => simp only [State.storeRegs, State.writeByte, State.writeAddr]; rw [ih]

theorem State.loadRegs_eq (s : State) (a n : Nat) : s.loadRegs a n = { s with v := (s.loadRegs a n).v } := by
  induction n with
  | zero => rfl
  | succ n ih => simp only [State.loadRegs, State.writeV]; rw [ih]

@[simp] theorem State.writeLogic_mem (s : State) (x : Reg) (r : Byte) : (s.writeLogic x r).mem = s.mem := by rw [State.writeLogic_eq s x r]
@[simp] theorem State.writeLogic_i (s : State) (x : Reg) (r : Byte) : (s.writeLogic x r).i = s.i := by rw [State.writeLogic_eq s x r]
@[simp] theorem State.writeLogic_pc (s : State) (x : Reg) (r : Byte) : (s.writeLogic x r).pc = s.pc := by rw [State.writeLogic_eq s x r]
@[simp] theorem State.writeLogic_stack (s : State) (x : Reg) (r : Byte) : (s.writeLogic x r).stack = s.stack := by rw [State.writeLogic_eq s x r]
@[simp] theorem State.writeLogic_dt (s : State) (x : Reg) (r : Byte) : (s.writeLogic x r).dt = s.dt := by rw [State.writeLogic_eq s x r]
@[simp] theorem State.writeLogic_st (s : State) (x : Reg) (r : Byte) : (s.writeLogic x r).st = s.st := by rw [State.writeLogic_eq s x r]
@[simp] theorem State.writeLogic_fb (s : State) (x : Reg) (r : Byte) : (s.writeLogic x r).fb = s.fb := by rw [State.writeLogic_eq s x r]
@[simp] theorem State.writeLogic_run (s : State) (x : Reg) (r : Byte) : (s.writeLogic x r).run = s.run := by rw [State.writeLogic_eq s x r]
@[simp] theorem State.writeLogic_prevKeys (s : State) (x : Reg) (r : Byte) : (s.writeLogic x r).prevKeys = s.prevKeys := by rw [State.writeLogic_eq s x r]
@[simp] theorem State.writeLogic_image (s : State) (x : Reg) (r : Byte) : (s.writeLogic x r).image = s.image := by rw [State.writeLogic_eq s x r]
@[simp] theorem State.writeLogic_cfg (s : State) (x : Reg) (r : Byte) : (s.writeLogic x r).cfg = s.cfg := by rw [State.writeLogic_eq s x r]
@[simp] theorem State.writeLogic_keys (s : State) (x : Reg) (r : Byte) : (s.writeLogic x r).keys = s.keys := by rw [State.writeLogic_eq s x r]
@[simp] theorem State.writeLogic_rnd (s : State) (x : Reg) (r : Byte) : (s.writeLogic x r).rnd = s.rnd := by rw [State.writeLogic_eq s x r]
@[simp] theorem State.writeLogic_result (s : State) (x : Reg) (r : Byte) : (s.writeLogic x r).result = s.result := by rw [State.writeLogic_eq s x r]
@[simp] theorem State.writeLogic_pending (s : State) (x : Reg) (r : Byte) : (s.writeLogic x r).pending = s.pending := by rw [State.writeLogic_eq s x r]
@[simp] theorem State.writeLogic_draws (s : State) (x : Reg) (r : Byte) : (s.writeLogic x r).draws = s.draws := by rw [State.writeLogic_eq s x r]
@[simp] theorem State.writeLogic_readAddr (s : State) (x : Reg) (r : Byte) (q : Nat) : (s.writeLogic x r).readAddr q = s.readAddr q := by rw [State.writeLogic_eq s x r]; rfl

@[simp] theorem State.storeRegs_v (s : State) (a n : Nat) : (s.storeRegs a n).v = s.v := by rw [State.storeRegs_eq s a n]
@[simp] theorem State.storeRegs_i (s : State) (a n : Nat) : (s.storeRegs a n).i = s.i := by rw [State.storeRegs_eq s a n]
@[simp] theorem State.storeRegs_pc (s : State) (a n : Nat) : (s.storeRegs a n).pc = s.pc := by rw [State.storeRegs_eq s a n]
@[simp] theorem State.storeRegs_stack (s : State) (a n : Nat) : (s.storeRegs a n).stack = s.stack := by rw [State.storeRegs_eq s a n]
@[simp] theorem State.storeRegs_dt (s : State) (a n : Nat) : (s.storeRegs a n).dt = s.dt := by rw [State.storeRegs_eq s a n]
@[simp] theorem State.storeRegs_st (s : State) (a n : Nat) : (s.storeRegs a n).st = s.st := by rw [State.storeRegs_eq s a n]
@[simp] theorem State.storeRegs_fb (s : State) (a n : Nat) : (s.storeRegs a n).fb = s.fb := by rw [State.storeRegs_eq s a n]
@[simp] theorem State.storeRegs_run (s : State) (a n : Nat) : (s.storeRegs a n).run = s.run := by rw [State.storeRegs_eq s a n]
@[simp] theorem State.storeRegs_prevKeys (s : State) (a n : Nat) : (s.storeRegs a n).prevKeys = s.prevKeys := by rw [State.storeRegs_eq s a n]
@[simp] theorem State.storeRegs_image (s : State) (a n : Nat) : (s.storeRegs a n).image = s.image := by rw [State.storeRegs_eq s a n]
@[simp] theorem State.storeRegs_cfg (s : State) (a n : Nat) : (s.storeRegs a n).cfg = s.cfg := by rw [State.storeRegs_eq s a n]
@[simp] theorem State.storeRegs_keys (s : State) (a n : Nat) : (s.storeRegs a n).keys = s.keys := by rw [State.storeRegs_eq s a n]
@[simp] theorem State.storeRegs_rnd (s : State) (a n : Nat) : (s.storeRegs a n).rnd = s.rnd := by rw [State.storeRegs_eq s a n]
@[simp] theorem State.storeRegs_result (s : State) (a n : Nat) : (s.storeRegs a n).result = s.result := by rw [State.storeRegs_eq s a n]
@[simp] theorem State.storeRegs_pending (s : State) (a n : Nat) : (s.storeRegs a n).pending = s.pending := by rw [State.storeRegs_eq s a n]
@[simp] theorem State.storeRegs_draws (s : State) (a n : Nat) : (s.storeRegs a n).draws = s.draws := by rw [State.storeRegs_eq s a n]
@[simp] theorem State.storeRegs_readV (s : State) (a n : Nat) (y : Reg) : (s.storeRegs a n).readV y = s.readV y := by rw [State.storeRegs_eq s a n]; rfl

@[simp] theorem State.loadRegs_mem (s : State) (a n : Nat) : (s.loadRegs a n).mem = s.mem := by rw [State.loadRegs_eq s a n]
@[simp] theorem State.loadRegs_i (s : State) (a n : Nat) : (s.loadRegs a n).i = s.i := by rw [State.loadRegs_eq s a n]
@[simp] theorem State.loadRegs_pc (s : State) (a n : Nat) : (s.loadRegs a n).pc = s.pc := by rw [State.loadRegs_eq s a n]
@[simp] theorem State.loadRegs_stack (s : State) (a n : Nat) : (s.loadRegs a n).stack = s.stack := by rw [State.loadRegs_eq s a n]
@[simp] theorem State.loadRegs_dt (s : State) (a n : Nat) : (s.loadRegs a n).dt = s.dt := by rw [State.loadRegs_eq s a n]
@[simp] theorem State.loadRegs_st (s : State) (a n : Nat) : (s.loadRegs a n).st = s.st := by rw [State.loadRegs_eq s a n]
@[simp] theorem State.loadRegs_fb (s : State) (a n : Nat) : (s.loadRegs a n).fb = s.fb := by rw [State.loadRegs_eq s a n]
@[simp] theorem State.loadRegs_run (s : State) (a n : Nat) : (s.loadRegs a n).run = s.run := by rw [State.loadRegs_eq s a n]
@[simp] theorem State.loadRegs_prevKeys (s : State) (a n : Nat) : (s.loadRegs a n).prevKeys = s.prevKeys := by rw [State.loadRegs_eq s a n]
@[simp] theorem State.loadRegs_image (s : State) (a n : Nat) : (s.loadRegs a n).image = s.image := by rw [State.loadRegs_eq s a n]
@[simp] theorem State.loadRegs_cfg (s : State) (a n : Nat) : (s.loadRegs a n).cfg = s.cfg := by rw [State.loadRegs_eq s a n]
@[simp] theorem State.loadRegs_keys (s : State) (a n : Nat) : (s.loadRegs a n).keys = s.keys := by rw [State.loadRegs_eq s a n]
@[simp] theorem State.loadRegs_rnd (s : State) (a n : Nat) : (s.loadRegs a n).rnd = s.rnd := by rw [State.loadRegs_eq s a n]
@[simp] theorem State.loadRegs_result (s : State) (a n : Nat) : (s.loadRegs a n).result = s.result := by rw [State.loadRegs_eq s a n]
@[simp] theorem State.loadRegs_pending (s : State) (a n : Nat) : (s.loadRegs a n).pending = s.pending := by rw [State.loadRegs_eq s a n]
@[simp] theorem State.loadRegs_draws (s : State) (a n : Nat) : (s.loadRegs a n).draws = s.draws := by rw [State.loadRegs_eq s a n]
@[simp] theorem State.loadRegs_readAddr (s : State) (a n : Nat) (q : Nat) : (s.loadRegs a n).readAddr q = s.readAddr q := by rw [State.loadRegs_eq s a n]; rfl

end Sys2Proof.Machine
end

