-- ==== Sys2Proof/Laws/Framebuffer.lean ====
section
/-! SUPPORT. Reading a pixel after clearing the screen or flipping one. -/

namespace Sys2Proof.Machine

@[simp] theorem Framebuffer.pixel_clear (c r : Nat) : Framebuffer.pixel Framebuffer.clear c r = false := by
  unfold Framebuffer.pixel Framebuffer.clear
  split <;> simp

/-- A flip inverts its pixel and leaves every other (44_display.md R181). -/
theorem Framebuffer.pixel_flip (f : Framebuffer) (c r p q : Nat) (hc : c < 64) (hr : r < 32) :
    Framebuffer.pixel (Framebuffer.flip f c r) p q =
      (Framebuffer.pixel f p q ^^ decide (p = c ∧ q = r)) := by
  have e : Framebuffer.flip f c r = f.set r (f[r].set c (!f[r][c])) := dif_pos ⟨hc, hr⟩
  rw [e]
  unfold Framebuffer.pixel
  by_cases h : p < 64 ∧ q < 32
  · rw [dif_pos h, dif_pos h]
    simp only [Vector.getElem_set]
    by_cases hq : r = q
    · subst hq
      by_cases hp : c = p
      · subst hp; simp
      · have : ¬p = c := fun e => hp e.symm
        simp [hp, this]
    · have : ¬q = r := fun e => hq e.symm
      simp [hq, this]
  · rw [dif_neg h, dif_neg h]
    have : ¬(p = c ∧ q = r) := by omega
    simp [this]

/-- Two framebuffers that agree on every pixel of the screen are equal. -/
theorem Framebuffer.ext (f g : Framebuffer)
    (h : ∀ c < 64, ∀ r < 32, Framebuffer.pixel f c r = Framebuffer.pixel g c r) : f = g := by
  apply Vector.ext; intro r hr
  apply Vector.ext; intro c hc
  have := h c hc r hr
  simpa [Framebuffer.pixel, hc, hr] using this

end Sys2Proof.Machine
end

