-- ==== Sys2Proof/Laws/Display.lean ====
section
/-! SUPPORT. What drawing a sprite does to every pixel and to the collision, for the whole sprite at once. -/

namespace Sys2Proof.Machine

/-- Whether bit n of a sprite byte started at column x0 is set and lands on column p. -/
abbrev bitHit (clip : Bool) (x0 : Nat) (b : Byte) (n p : Nat) : Bool :=
  decide ((p + 64 - x0) % 64 = n ∧ (clip = true → x0 ≤ p)) && b.getLsbD (7 - n)

/-- Whether one of the first n bits of a sprite byte started at column x0 is set and lands on column p. -/
def colHit (clip : Bool) (x0 : Nat) (b : Byte) (n p : Nat) : Bool :=
  decide ((p + 64 - x0) % 64 < n ∧ (clip = true → x0 ≤ p)) && b.getLsbD (7 - (p + 64 - x0) % 64)

/-- Drawing n bits of a byte on row yy XORs the columns they hit and notes a collision (44_display.md R181). -/
theorem drawByte_pixel (clip : Bool) (x0 yy : Nat) (b : Byte) (n : Nat) (d : Framebuffer × Bool)
    (hx : x0 < 64) (hy : yy < 32) (hn : n ≤ 8) :
    (∀ p q, p < 64 → q < 32 → Framebuffer.pixel (drawByte clip x0 yy b n d).1 p q =
      (Framebuffer.pixel d.1 p q ^^ (decide (q = yy) && colHit clip x0 b n p))) ∧
    ((drawByte clip x0 yy b n d).2 = true ↔
      d.2 = true ∨ ∃ p < 64, Framebuffer.pixel d.1 p yy = true ∧ colHit clip x0 b n p = true) := by
  induction n with
  | zero => simp [drawByte, colHit]
  | succ n ih =>
    obtain ⟨ih1, ih2⟩ := ih (by omega)
    have split1 : ∀ p < 64, colHit clip x0 b (n+1) p =
        (colHit clip x0 b n p ^^ bitHit clip x0 b n p) := by
      intro p hp
      unfold colHit bitHit
      by_cases e : (p + 64 - x0) % 64 = n
      · simp [e]
      · have : (p + 64 - x0) % 64 < n + 1 ↔ (p + 64 - x0) % 64 < n := by omega
        simp [e, this]
    -- the pixel drawn by bit n
    have cases3 :
        (drawBit clip x0 yy b n (drawByte clip x0 yy b n d) = drawByte clip x0 yy b n d ∧
          ∀ p < 64, bitHit clip x0 b n p = false) ∨
        ∃ xx < 64, drawBit clip x0 yy b n (drawByte clip x0 yy b n d) =
            drawPixel xx yy (drawByte clip x0 yy b n d) ∧
          ∀ p < 64, bitHit clip x0 b n p = decide (p = xx) := by
      unfold drawBit bitHit
      cases hb : b.getLsbD (7 - n) with
      | false => left; simp
      | true =>
        rw [if_pos rfl]
        by_cases h1 : x0 + n < 64
        · rw [if_pos h1]; right
          refine ⟨x0 + n, h1, rfl, fun p hp => ?_⟩
          simp only [Bool.and_true, decide_eq_decide]
          constructor
          · rintro ⟨h, _⟩; omega
          · rintro rfl; exact ⟨by omega, fun _ => by omega⟩
        · rw [if_neg h1]
          cases clip with
          | true =>
            left; refine ⟨by simp, fun p hp => ?_⟩
            simp; omega
          | false =>
            right; refine ⟨x0 + n - 64, by omega, by simp, fun p hp => ?_⟩
            simp only [Bool.and_true, decide_eq_decide]
            constructor
            · rintro ⟨h, _⟩; omega
            · rintro rfl; exact ⟨by omega, by simp⟩
    have hnn : ∀ p < 64, colHit clip x0 b n p = true → bitHit clip x0 b n p = false := by
      intro p hp h
      unfold colHit at h
      simp [bitHit] at h ⊢
      intro h'; omega
    rcases cases3 with ⟨e, h0⟩ | ⟨xx, hxx, e, h0⟩
    · have c0 : ∀ p < 64, colHit clip x0 b (n+1) p = colHit clip x0 b n p := by intro p hp; rw [split1 p hp, h0 p hp]; simp
      simp only [drawByte, e]
      refine ⟨fun p q hp hq => by rw [ih1 p q hp hq, c0 p hp], ih2.trans (or_congr Iff.rfl ?_)⟩
      constructor
      · rintro ⟨p, hp, h1, h2⟩; exact ⟨p, hp, h1, by rw [c0 p hp, h2]⟩
      · rintro ⟨p, hp, h1, h2⟩; exact ⟨p, hp, h1, by rw [← c0 p hp, h2]⟩
    · simp only [drawByte, e, drawPixel]
      have cxx : colHit clip x0 b n xx = false := by
        cases h : colHit clip x0 b n xx with
        | false => rfl
        | true => have := hnn xx hxx h; rw [h0 xx hxx] at this; simp at this
      refine ⟨fun p q hp hq => ?_, ?_⟩
      · rw [Framebuffer.pixel_flip _ _ _ _ _ hxx hy, ih1 p q hp hq, split1 p hp, h0 p hp]
        by_cases hqy : q = yy <;> by_cases hpx : p = xx <;> simp [hqy, hpx]
      · rw [Bool.or_eq_true, ih2, ih1 xx yy hxx hy, cxx]
        simp only [Bool.and_false, Bool.xor_false]
        constructor
        · rintro ((h | ⟨p, hp, h1, h2⟩) | h)
          · exact .inl h
          · exact .inr ⟨p, hp, h1, by rw [split1 p hp, h2, hnn p hp h2]; rfl⟩
          · exact .inr ⟨xx, hxx, h, by rw [split1 xx hxx, cxx, h0 xx hxx]; simp⟩
        · rintro (h | ⟨p, hp, h1, h2⟩)
          · exact .inl (.inl h)
          · rw [split1 p hp, h0 p hp] at h2
            by_cases hpx : p = xx
            · subst hpx; exact .inr h1
            · simp [hpx] at h2; exact .inl (.inr ⟨p, hp, h1, h2⟩)

/-- Drawing n rows XORs what the sprite covers and notes a collision (44_display.md R181, R182). -/
theorem State.drawRows_pixel (s : State) (x0 y0 n : Nat) (hx : x0 < 64) :
    (∀ c < 64, ∀ r < 32, Framebuffer.pixel (s.drawRows x0 y0 n).1 c r =
      (s.pixel c r ^^ s.spriteCovers x0 y0 n c r)) ∧
    ((s.drawRows x0 y0 n).2 = true ↔
      ∃ c r, c < 64 ∧ r < 32 ∧ s.pixel c r = true ∧ s.spriteCovers x0 y0 n c r = true) := by
  induction n with
  | zero => simp [State.drawRows, State.spriteCovers, State.pixel]
  | succ n ih =>
    obtain ⟨ih1, ih2⟩ := ih
    have sp : ∀ c < 64, ∀ r < 32, s.spriteCovers x0 y0 (n+1) c r =
        (s.spriteCovers x0 y0 n c r ^^ (decide (r = y0 + n) && colHit s.cfg.spriteHClip x0 (s.readByte s.i.toNat n) 8 c)) := by
      intro c hc r hr
      unfold State.spriteCovers colHit
      by_cases e : r = y0 + n
      · subst e; simp
      · have : (y0 ≤ r ∧ r - y0 < n + 1) ↔ (y0 ≤ r ∧ r - y0 < n) := by omega
        have h2 : (y0 ≤ r ∧ r - y0 < n + 1 ∧ (c + 64 - x0) % 64 < 8 ∧ (s.cfg.spriteHClip = true → x0 ≤ c)) ↔
            (y0 ≤ r ∧ r - y0 < n ∧ (c + 64 - x0) % 64 < 8 ∧ (s.cfg.spriteHClip = true → x0 ≤ c)) := by
          rw [← and_assoc, this, and_assoc]
        simp only [decide_eq_decide.2 h2, decide_eq_false e, Bool.false_and, Bool.xor_false]
    simp only [State.drawRows]
    by_cases h32 : 32 ≤ y0 + n
    · rw [if_pos h32]
      have c0 : ∀ c < 64, ∀ r < 32, s.spriteCovers x0 y0 (n+1) c r = s.spriteCovers x0 y0 n c r := by
        intro c hc r hr; rw [sp c hc r hr]; have : ¬ r = y0 + n := by omega
        simp [this]
      refine ⟨fun c hc r hr => by rw [ih1 c hc r hr, c0 c hc r hr], ih2.trans ?_⟩
      constructor
      · rintro ⟨c, r, hc, hr, h1, h2⟩; exact ⟨c, r, hc, hr, h1, by rw [c0 c hc r hr, h2]⟩
      · rintro ⟨c, r, hc, hr, h1, h2⟩; exact ⟨c, r, hc, hr, h1, by rw [← c0 c hc r hr, h2]⟩
    · rw [if_neg h32]
      obtain ⟨b1, b2⟩ := drawByte_pixel s.cfg.spriteHClip x0 (y0+n) (s.readByte s.i.toNat n) 8 (s.drawRows x0 y0 n)
        hx (by omega) le_rfl
      have dis : ∀ c, s.spriteCovers x0 y0 n c (y0+n) = false := by intro c; simp [State.spriteCovers]
      refine ⟨fun c hc r hr => ?_, b2.trans ?_⟩
      · rw [b1 c r hc hr, ih1 c hc r hr, sp c hc r hr, Bool.xor_assoc]
      · rw [ih2]
        constructor
        · rintro (⟨c, r, hc, hr, h1, h2⟩ | ⟨p, hp, h1, h2⟩)
          · refine ⟨c, r, hc, hr, h1, ?_⟩
            rw [sp c hc r hr, h2]
            have : ¬ r = y0 + n := by rintro rfl; rw [dis] at h2; cases h2
            simp [this]
          · refine ⟨p, y0+n, hp, by omega, ?_, ?_⟩
            · rw [ih1 p hp _ (by omega), dis] at h1; simpa using h1
            · rw [sp p hp _ (by omega), dis, h2]; simp
        · rintro ⟨c, r, hc, hr, h1, h2⟩
          rw [sp c hc r hr] at h2
          by_cases e : r = y0 + n
          · subst e; rw [dis] at h2
            right; exact ⟨c, hc, by rw [ih1 c hc _ hr, dis, h1]; rfl, by simpa using h2⟩
          · left; exact ⟨c, r, hc, hr, h1, by simpa [e] using h2⟩

end Sys2Proof.Machine
end

