-- ==== Sys2Proof/Laws/Memory.lean ====
section
/-! SUPPORT. Memory: a read after a write, the canonical form and that every operation keeps it, and which addresses an
access that passed its range check touches. -/

namespace Sys2Proof.Machine

/-- An address below every listed one reads as unlisted. -/
theorem Memory.read_of_lt (base : Nat → Byte) (m : List Host.Cell) (a : Nat) (h : ∀ c ∈ m, a < c.1) :
    Memory.read base m a = base a := by
  induction m with
  | nil => rfl
  | cons c m ih =>
    have hc := h c (by simp)
    rw [Memory.read, if_neg (by omega), ih fun d hd => h d (by simp [hd])]

/-- A write changes only the byte it names (20_memory.md R59, R61). -/
theorem Memory.read_write (base : Nat → Byte) (m : List Host.Cell) (a b : _) (q : Nat)
    (hm : m.Pairwise fun c d => c.1 < d.1) :
    Memory.read base (Memory.write base m a b) q = if q = a then b else Memory.read base m q := by
  induction m with
  | nil =>
    unfold Memory.write
    split <;> by_cases h : q = a <;> simp_all [Memory.read, eq_comm]
  | cons c m ih =>
    rw [List.pairwise_cons] at hm
    have low : ∀ p, p ≤ c.1 → Memory.read base m p = base p := fun p hp =>
      Memory.read_of_lt base m p fun d hd => by have := hm.1 d hd; omega
    unfold Memory.write
    by_cases h1 : c.1 < a
    · rw [if_pos h1]
      simp only [Memory.read, ih hm.2]
      by_cases h : c.1 = q
      · rw [if_pos h, if_pos h, if_neg (by omega)]
      · rw [if_neg h, if_neg h]
    · rw [if_neg h1]
      by_cases h2 : c.1 = a
      · rw [if_pos h2]
        by_cases h : q = a
        · subst h
          split
          · rw [if_pos rfl, low q (by omega)]; simp_all
          · simp [Memory.read]
        · have : c.1 ≠ q := fun e => h (by omega)
          have ha : a ≠ q := fun e => h e.symm
          split <;> simp [Memory.read, this, ha]
      · rw [if_neg h2]
        by_cases h : q = a
        · subst h
          split
          · rw [if_pos rfl, Memory.read, if_neg h2, low q (by omega)]; simp_all
          · simp [Memory.read]
        · have ha : a ≠ q := fun e => h e.symm
          split <;> simp [Memory.read, ha]

/-- What a write may leave in the list. -/
theorem Memory.mem_write (base : Nat → Byte) (m : List Host.Cell) (a : Nat) (b : Byte) (d : Host.Cell)
    (h : d ∈ Memory.write base m a b) : d ∈ m ∨ (d = (a, b) ∧ b ≠ base a) := by
  induction m with
  | nil =>
    unfold Memory.write at h
    split at h <;> simp_all
  | cons c m ih =>
    unfold Memory.write at h
    split at h
    · rcases List.mem_cons.1 h with h | h
      · simp [h]
      · rcases ih h with h | h <;> simp [h]
    · split at h <;> split at h <;> (try simp only [List.mem_cons] at h) <;> simp only [List.mem_cons] <;> tauto

/-- A write keeps the canonical form. -/
theorem Memory.wf_write (base : Nat → Byte) (m : List Host.Cell) (a : Nat) (b : Byte) (hm : Memory.wf base m)
    (ha : a < Config.memSize) : Memory.wf base (Memory.write base m a b) := by
  refine ⟨?_, fun d hd => ?_⟩
  · have hp := hm.1
    clear hm
    induction m with
    | nil => unfold Memory.write; split <;> simp
    | cons c m ih =>
      rw [List.pairwise_cons] at hp
      unfold Memory.write
      split
      · rename_i h1
        refine List.pairwise_cons.2 ⟨fun d hd => ?_, ih hp.2⟩
        rcases Memory.mem_write base m a b d hd with h | ⟨rfl, -⟩
        · exact hp.1 d h
        · exact h1
      · split
        · rename_i h1 h2
          split
          · exact hp.2
          · exact List.pairwise_cons.2 ⟨fun d hd => by have := hp.1 d hd; simp; omega, hp.2⟩
        · rename_i h1 h2
          have hc : List.Pairwise (fun c d : Host.Cell => c.1 < d.1) (c :: m) := List.pairwise_cons.2 hp
          split
          · exact hc
          · refine List.pairwise_cons.2 ⟨fun d hd => ?_, hc⟩
            rcases List.mem_cons.1 hd with rfl | hd
            · simp; omega
            · have := hp.1 d hd; simp; omega
  · rcases Memory.mem_write base m a b d hd with h | ⟨rfl, h⟩
    · exact hm.2 d h
    · exact ⟨ha, h⟩

/-- What a loaded list holds lies in the range loaded to. -/
theorem Memory.mem_load (base : Nat → Byte) (a : Nat) (bytes : List Byte) (d : Host.Cell)
    (h : d ∈ Memory.load base a bytes) : a ≤ d.1 ∧ d.1 < a + bytes.length ∧ d.2 ≠ base d.1 := by
  induction bytes generalizing a with
  | nil => simp [Memory.load] at h
  | cons b bytes ih =>
    unfold Memory.load at h
    split at h
    · have := ih (a + 1) h; exact ⟨by omega, by simp; omega, this.2.2⟩
    · rcases List.mem_cons.1 h with rfl | h
      · simp_all
      · have := ih (a + 1) h; exact ⟨by omega, by simp; omega, this.2.2⟩

/-- A loaded list is canonical when the bytes end inside memory. -/
theorem Memory.wf_load (base : Nat → Byte) (a : Nat) (bytes : List Byte) (h : a + bytes.length ≤ Config.memSize) :
    Memory.wf base (Memory.load base a bytes) := by
  refine ⟨?_, fun d hd => ?_⟩
  · clear h
    induction bytes generalizing a with
    | nil => simp [Memory.load]
    | cons b bytes ih =>
      unfold Memory.load
      split
      · exact ih (a + 1)
      · refine List.pairwise_cons.2 ⟨fun d hd => ?_, ih (a + 1)⟩
        have := Memory.mem_load base (a + 1) bytes d hd
        simp; omega
  · have := Memory.mem_load base a bytes d hd
    exact ⟨by omega, this.2.2⟩

/-- A loaded list reads as the bytes in their range and as unlisted outside it (20_memory.md R57). -/
theorem Memory.read_load (base : Nat → Byte) (a : Nat) (bytes : List Byte) (q : Nat) :
    Memory.read base (Memory.load base a bytes) q =
      if h : a ≤ q ∧ q - a < bytes.length then bytes[q - a]'h.2 else base q := by
  induction bytes generalizing a with
  | nil => simp [Memory.load, Memory.read]
  | cons b bytes ih =>
    have step : Memory.read base (Memory.load base a (b :: bytes)) q =
        if q = a then b else Memory.read base (Memory.load base (a + 1) bytes) q := by
      rw [Memory.load]
      by_cases hb : b = base a
      · rw [if_pos hb]
        by_cases hq : q = a
        · rw [if_pos hq, Memory.read_of_lt, hb, hq]
          intro d hd
          have := Memory.mem_load base (a + 1) bytes d hd
          omega
        · rw [if_neg hq]
      · rw [if_neg hb, Memory.read]
        by_cases hq : q = a
        · simp [hq]
        · rw [if_neg (fun e => hq e.symm), if_neg hq]
    rw [step, ih (a + 1)]
    by_cases hq : q = a
    · subst hq; simp
    · by_cases h : a + 1 ≤ q ∧ q - (a + 1) < bytes.length
      · have e : q - a = (q - (a + 1)) + 1 := by omega
        have h' : a ≤ q ∧ q - a < (b :: bytes).length := by simp; omega
        rw [if_neg hq, dif_pos h, dif_pos h']
        simp [e]
      · have h' : ¬(a ≤ q ∧ q - a < (b :: bytes).length) := by simp; omega
        rw [if_neg hq, dif_neg h, dif_neg h']

/-! ### The address policy (20_memory.md R53) -/

theorem rangeError_eq_some (cfg : Config) (a n e : Nat) :
    rangeError cfg a n = some e ↔ cfg.addrPolicy = .check ∧ 1 ≤ n ∧ 0xFFF < a + n - 1 ∧ e = max a 0x1000 := by
  unfold rangeError
  split
  · rename_i h; simp [h]; omega
  · rename_i h; simp; intro h1 h2 h3; exact absurd ⟨h1, h2, h3⟩ h

theorem rangeError_eq_none (cfg : Config) (a n : Nat) :
    rangeError cfg a n = none ↔ (cfg.addrPolicy = .check → 1 ≤ n → a + n - 1 ≤ 0xFFF) := by
  unfold rangeError
  split
  · rename_i h; simp; exact ⟨h.1, h.2.1, by omega⟩
  · rename_i h; simp; intro h1 h2; by_contra h3; exact h ⟨h1, h2, by omega⟩

/-- An access that passed its range check touches addresses that exist. -/
theorem byteAddr_lt (cfg : Config) (a n k : Nat) (h : rangeError cfg a n = none) (hk : k < n) :
    byteAddr cfg a k < Config.memSize := by
  rw [rangeError_eq_none] at h
  unfold byteAddr
  split
  · rename_i hp; have := h hp (by omega); simp only [Config.memSize]; omega
  · exact Nat.mod_lt _ (by simp)

/-- The bytes of an access of at most 4096 bytes are distinct. -/
theorem byteAddr_inj (cfg : Config) (a j k : Nat) (hj : j < 4096) (hk : k < 4096)
    (h : byteAddr cfg a j = byteAddr cfg a k) : j = k := by
  unfold byteAddr at h
  split at h
  · omega
  · simp only [Config.memSize] at h; omega

/-! ### The machine's memory -/

/-- Reading after a store (20_memory.md R61). -/
theorem State.readAddr_writeAddr (s : State) (a : Nat) (b : Byte) (q : Nat)
    (hm : Memory.wf (unlistedByte s.cfg.font) s.mem) :
    (s.writeAddr a b).readAddr q = if q = a then b else s.readAddr q :=
  Memory.read_write _ _ a b q hm.1

/-- A store to an address that exists keeps the canonical form. -/
theorem State.wf_writeAddr (s : State) (a : Nat) (b : Byte) (ha : a < Config.memSize)
    (hm : Memory.wf (unlistedByte s.cfg.font) s.mem) :
    Memory.wf (unlistedByte (s.writeAddr a b).cfg.font) (s.writeAddr a b).mem :=
  Memory.wf_write _ _ a b hm ha

/-- Storing V0 to V[n-1] keeps the canonical form. -/
theorem State.wf_storeRegs (s : State) (a n : Nat) (h : rangeError s.cfg a n = none)
    (hm : Memory.wf (unlistedByte s.cfg.font) s.mem) :
    ∀ k, k ≤ n → Memory.wf (unlistedByte s.cfg.font) (s.storeRegs a k).mem := by
  intro k
  induction k with
  | zero => exact fun _ => hm
  | succ k ih =>
    intro hk
    have := State.wf_writeAddr (s.storeRegs a k) (byteAddr s.cfg a k) (s.readV (BitVec.ofNat 4 k))
      (byteAddr_lt s.cfg a n k h (by omega)) (by simpa using ih (by omega))
    simpa [State.storeRegs, State.writeByte] using this

/-- Byte k of the store is V[k]; every other address keeps its byte (43_index_memory.md R165). -/
theorem State.readAddr_storeRegs (s : State) (a n : Nat) (hn : n ≤ 16) (h : rangeError s.cfg a n = none)
    (hm : Memory.wf (unlistedByte s.cfg.font) s.mem) :
    (∀ k, k < n → (s.storeRegs a n).readAddr (byteAddr s.cfg a k) = s.readV (BitVec.ofNat 4 k)) ∧
    (∀ q, (∀ k, k < n → q ≠ byteAddr s.cfg a k) → (s.storeRegs a n).readAddr q = s.readAddr q) := by
  have key : ∀ m, m ≤ n →
      (∀ k, k < m → (s.storeRegs a m).readAddr (byteAddr s.cfg a k) = s.readV (BitVec.ofNat 4 k)) ∧
      (∀ q, (∀ k, k < m → q ≠ byteAddr s.cfg a k) → (s.storeRegs a m).readAddr q = s.readAddr q) := by
    intro m
    induction m with
    | zero => exact fun _ => ⟨fun k hk => by omega, fun q _ => rfl⟩
    | succ m ih =>
      intro hm'
      have ihm := ih (by omega)
      have wfm := State.wf_storeRegs s a n h hm m (by omega)
      have read : ∀ q, (s.storeRegs a (m + 1)).readAddr q =
          if q = byteAddr s.cfg a m then s.readV (BitVec.ofNat 4 m) else (s.storeRegs a m).readAddr q := by
        intro q
        have := State.readAddr_writeAddr (s.storeRegs a m) (byteAddr s.cfg a m) (s.readV (BitVec.ofNat 4 m)) q
          (by simpa using wfm)
        simpa [State.storeRegs, State.writeByte] using this
      refine ⟨fun k hk => ?_, fun q hq => ?_⟩
      · rw [read]
        by_cases e : byteAddr s.cfg a k = byteAddr s.cfg a m
        · rw [if_pos e, byteAddr_inj s.cfg a k m (by omega) (by omega) e]
        · rw [if_neg e]
          exact ihm.1 k (by have : k ≠ m := fun h => e (by rw [h]); omega)
      · rw [read, if_neg (hq m (by omega))]
        exact ihm.2 q fun k hk => hq k (by omega)
  exact key n le_rfl

/-! ### Frames: what a store leaves -/

/-- A store leaves every other address, whatever the list holds. -/
theorem Memory.read_write_ne (base : Nat → Byte) (m : List Host.Cell) (a : Nat) (b : Byte) (q : Nat) (h : q ≠ a) :
    Memory.read base (Memory.write base m a b) q = Memory.read base m q := by
  induction m with
  | nil => unfold Memory.write; split <;> simp [Memory.read, Ne.symm h]
  | cons c m ih =>
    unfold Memory.write
    split
    · simp [Memory.read, ih]
    · split
      · have : c.1 ≠ q := by omega
        split <;> simp [Memory.read, this, Ne.symm h]
      · split <;> simp [Memory.read, Ne.symm h]

/-- A bulk store leaves every address it does not reach (43_index_memory.md R165). -/
theorem State.readAddr_storeRegs_of_ne (s : State) (a n q : Nat) (h : ∀ k < n, q ≠ byteAddr s.cfg a k) :
    (s.storeRegs a n).readAddr q = s.readAddr q := by
  induction n with
  | zero => rfl
  | succ n ih =>
    rw [← ih fun k hk => h k (by omega)]
    have e := Memory.read_write_ne (unlistedByte (s.storeRegs a n).cfg.font) (s.storeRegs a n).mem
      (byteAddr s.cfg a n) (s.readV (BitVec.ofNat 4 n)) q (h n (by omega))
    simpa [State.storeRegs, State.writeByte, State.writeAddr, State.readAddr] using e

end Sys2Proof.Machine
end

