-- ==== Sys2Proof/Laws/Registers.lean ====
section
/-! SUPPORT. Reading a register after a write. -/

namespace Sys2Proof.Machine

theorem State.readV_writeV (s : State) (x y : Reg) (b : Byte) :
    (s.writeV x b).readV y = if x = y then b else s.readV y := by
  simp [State.readV, State.writeV, Vector.getElem_set, BitVec.toNat_inj]

@[simp] theorem State.readV_writeV_self (s : State) (x : Reg) (b : Byte) : (s.writeV x b).readV x = b := by
  simp [State.readV_writeV]

theorem State.readV_writeV_of_ne (s : State) {x y : Reg} (h : y ≠ x) (b : Byte) :
    (s.writeV x b).readV y = s.readV y := by
  simp [State.readV_writeV, Ne.symm h]

/-- The flag is what VF holds afterwards, whatever x is (10_state.md R24). -/
theorem State.readV_writeWithFlag (s : State) (x y : Reg) (r f : Byte) :
    (s.writeWithFlag x r f).readV y = if regF = y then f else if x = y then r else s.readV y := by
  simp only [State.writeWithFlag, State.readV_writeV]

theorem State.readV_writeLogic (s : State) (x y : Reg) (r : Byte) :
    (s.writeLogic x r).readV y =
      if s.cfg.logicResetsVf = true ∧ regF = y then 0 else if x = y then r else s.readV y := by
  unfold State.writeLogic
  split <;> simp [*, State.readV_writeWithFlag, State.readV_writeV]

/-- V[0] to V[n-1] come from memory, the others stay (43_index_memory.md R166). -/
theorem State.readV_loadRegs (s : State) (a : Nat) (n : Nat) (hn : n ≤ 16) (y : Reg) :
    (s.loadRegs a n).readV y = if y.toNat < n then s.readByte a y.toNat else s.readV y := by
  induction n with
  | zero => simp [State.loadRegs]
  | succ n ih =>
    have hy := y.isLt
    have key : BitVec.ofNat 4 n = y ↔ y.toNat = n := by
      rw [← BitVec.toNat_inj, BitVec.toNat_ofNat, Nat.mod_eq_of_lt (by omega)]; exact eq_comm
    simp only [State.loadRegs, State.readV_writeV, ih (by omega), key]
    by_cases h : y.toNat = n
    · simp [h]
    · have : y.toNat < n + 1 ↔ y.toNat < n := by omega
      simp [h, this]

end Sys2Proof.Machine
end

