-- ==== Sys2Proof/Laws/Step.lean ====
section
/-! SUPPORT. What each way of ending a step can do, said once: an inversion lemma for every shared operation that
answers an outcome, and for the step itself. -/

namespace Sys2Proof.Machine

/-! ### Error kinds (60_exceptions.md R220) -/

/-- A code names one error kind. -/
theorem ErrorKind.code_inj {k l : ErrorKind} : k.code = l.code ↔ k = l := by
  cases k <;> cases l <;> simp [ErrorKind.code]

/-- What a step raises is always a fatal kind, so never ImageTooLarge. -/
@[simp] theorem FatalError.kind_isFatal (e : FatalError) : e.kind.isFatal = true := by cases e <;> rfl

@[simp] theorem State.halt_errorCode (s : State) (e : FatalError) : (s.halt e).errorCode = some e.kind.code := rfl
@[simp] theorem State.commit_ok_errorCode (s : State) : (s.commit .ok).errorCode = none := rfl
@[simp] theorem State.commit_waiting_errorCode (s : State) : (s.commit .waiting).errorCode = none := rfl

/-! ### How a step ends -/

theorem complete_next {s t : State} : complete s = .next t ↔ t = s.commit .ok := by
  unfold complete; constructor
  · intro h; injection h with h; exact h.symm
  · rintro rfl; rfl

theorem waitOn_next {s t : State} : waitOn s = .next t ↔ t = s.commit .waiting := by
  unfold waitOn; constructor
  · intro h; injection h with h; exact h.symm
  · rintro rfl; rfl

theorem raise_next {s t : State} {e : FatalError} :
    raise s e = .next t ↔ t = s.halt e := by
  unfold raise; constructor
  · intro h; injection h with h; exact h.symm
  · rintro rfl; rfl

/-- A checked access raises, or goes on (20_memory.md R53). -/
theorem checked_cases (s : State) (a n : Nat) (k : Outcome) :
    (rangeError s.cfg a n = none ∧ checked s a n k = k) ∨
    (∃ e, rangeError s.cfg a n = some e ∧ checked s a n k = raise s (.memoryAccessOutOfRange s.pc e)) := by
  unfold checked
  cases h : rangeError s.cfg a n with
  | none => exact .inl ⟨rfl, rfl⟩
  | some e => exact .inr ⟨e, rfl, rfl⟩

theorem checked_of_none {s : State} {a n : Nat} (h : rangeError s.cfg a n = none) (k : Outcome) :
    checked s a n k = k := by simp [checked, h]

theorem checked_of_some {s : State} {a n e : Nat} (h : rangeError s.cfg a n = some e) (k : Outcome) :
    checked s a n k = raise s (.memoryAccessOutOfRange s.pc e) := by simp [checked, h]

/-- A step in Ready raises the fetch's error, raises InvalidOpcode, or is exec of the decoded instruction
(40_pipeline.md R108). -/
theorem runReady_cases (s : State) :
    (∃ e, rangeError s.cfg s.pc.toNat 2 = some e ∧ runReady s = raise s (.memoryAccessOutOfRange s.pc e)) ∨
    (∃ why, rangeError s.cfg s.pc.toNat 2 = none ∧ decode s.fetchWord = .invalid why ∧
      runReady s = raise s (.invalidOpcode s.pc s.fetchWord)) ∨
    (∃ i, rangeError s.cfg s.pc.toNat 2 = none ∧ decode s.fetchWord = .instr i ∧ runReady s = exec i s) := by
  unfold runReady
  rcases checked_cases s s.pc.toNat 2 (runDecoded (decode s.fetchWord) s) with ⟨h, e⟩ | ⟨a, h, e⟩
  · rw [e]
    cases hd : decode s.fetchWord with
    | instr i => exact .inr (.inr ⟨i, h, rfl, rfl⟩)
    | invalid why => exact .inr (.inl ⟨why, h, rfl, rfl⟩)
  · exact .inl ⟨a, h, e⟩

/-- A key wait goes on, or ends with the lowest new key (45_input.md R193). -/
theorem keyWait_cases (x : Reg) (s : State) :
    (lowestKey s.newKeys = none ∧ keyWait x s = waitOn s) ∨
    (∃ k, lowestKey s.newKeys = some k ∧
      keyWait x s = complete ((s.advance.writeV x (BitVec.ofNat 8 k)).setRun .ready)) := by
  unfold keyWait
  cases h : lowestKey s.newKeys with
  | none => exact .inl ⟨rfl, rfl⟩
  | some k => exact .inr ⟨k, rfl, rfl⟩

/-- The next transaction is the head of the pending ones, or a step with free inputs (log 1, 2). -/
theorem State.nextTransaction_cases (s : State) :
    (∃ u rest, s.pending = u :: rest ∧ s.nextTransaction = (u, { s with pending := rest })) ∨
    (s.pending = [] ∧ s.nextTransaction =
      (.step (Config.freeKeys s.draws) (Config.freeRnd s.draws), { s with draws := s.draws + 1 })) := by
  unfold State.nextTransaction
  cases h : s.pending with
  | nil => exact .inr ⟨rfl, rfl⟩
  | cons u rest => exact .inl ⟨u, rest, rfl, rfl⟩

/-! ### The lowest new key (45_input.md R193) -/

theorem lowestFrom_eq_none (w : Keys) (k n : Nat) :
    lowestFrom w k n = none ↔ ∀ j, k ≤ j → j < k + n → w.getLsbD j = false := by
  induction n generalizing k with
  | zero => simp [lowestFrom]; intro j; omega
  | succ n ih =>
    unfold lowestFrom
    cases h : w.getLsbD k with
    | true => simp; exact ⟨k, le_rfl, by omega, h⟩
    | false =>
      simp only [Bool.false_eq_true, if_false, ih]
      refine ⟨fun g j h1 h2 => ?_, fun g j h1 h2 => g j (by omega) (by omega)⟩
      by_cases e : j = k
      · rw [e, h]
      · exact g j (by omega) (by omega)

theorem lowestFrom_eq_some (w : Keys) (k n m : Nat) :
    lowestFrom w k n = some m ↔
      k ≤ m ∧ m < k + n ∧ w.getLsbD m = true ∧ ∀ j, k ≤ j → j < m → w.getLsbD j = false := by
  induction n generalizing k with
  | zero => simp [lowestFrom]; omega
  | succ n ih =>
    unfold lowestFrom
    cases h : w.getLsbD k with
    | true =>
      simp only [if_true, Option.some.injEq]
      constructor
      · rintro rfl; exact ⟨le_rfl, by omega, h, fun j h1 h2 => by omega⟩
      · rintro ⟨h1, -, -, h4⟩
        by_contra e
        have := h4 k le_rfl (by omega)
        simp [h] at this
    | false =>
      simp only [Bool.false_eq_true, if_false, ih]
      constructor
      · rintro ⟨h1, h2, h3, h4⟩
        refine ⟨by omega, by omega, h3, fun j h5 h6 => ?_⟩
        by_cases e : j = k
        · rw [e, h]
        · exact h4 j (by omega) h6
      · rintro ⟨h1, h2, h3, h4⟩
        have : m ≠ k := fun e => by rw [e, h] at h3; cases h3
        exact ⟨by omega, by omega, h3, fun j h5 h6 => h4 j (by omega) h6⟩

end Sys2Proof.Machine
end

