-- ==== Sys2Proof/Laws/Exec.lean ====
section
/-! SUPPORT. What an instruction can do, said once over all of them, and what one transaction starts from. -/

namespace Sys2Proof.Machine

/-- An instruction raises its one error and writes nothing, or completes, or is FX0A and starts the wait
(60_exceptions.md R222, R224, 40_pipeline.md R108). -/
theorem exec_cases (i : Instr) (s : State) :
    (∃ e, s.instrError i = some e ∧ exec i s = raise s e) ∨
    (s.instrError i = none ∧ ∃ t, (exec i s = complete t ∧ t.run = s.run ∧ t.keys = s.keys) ∨
      (∃ x, i = .ldVxK x ∧ t = s.setRun (.awaitingKey x) ∧ exec i s = waitOn t)) := by
  cases i
  case ret =>
    rcases List.eq_nil_or_concat s.stack with h | ⟨l, a, h⟩
    · left; exact ⟨.stackUnderflow s.pc, by simp [State.instrError, State.depth, h], by simp [exec, execRet, h]⟩
    · right
      exact ⟨by simp [State.instrError, State.depth, h], s.dropTop.setPc a, .inl ⟨by simp [exec, execRet, h], rfl, rfl⟩⟩
  case call nnn =>
    by_cases h : s.depth = 16
    · left; exact ⟨_, if_pos h, if_pos h⟩
    · right; exact ⟨if_neg h, _, .inl ⟨if_neg h, by simp, by simp⟩⟩
  case ldVxK x => right; exact ⟨rfl, _, .inr ⟨x, rfl, rfl, rfl⟩⟩
  case drw x y n =>
    rcases checked_cases s s.i.toNat n.toNat (complete
      ((s.advance.setFb (s.drawing x y n).1).writeV regF (flagByte (s.drawing x y n).2))) with ⟨h, e⟩ | ⟨a, h, e⟩
    · right; exact ⟨by simp [State.instrError, h], _, .inl ⟨e, by simp, by simp⟩⟩
    · left; exact ⟨_, by simp only [State.instrError, h]; rfl, e⟩
  case ldB x =>
    rcases checked_cases s s.i.toNat 3 (complete
      (((s.advance.writeByte s.i.toNat 0 (hundreds (s.readV x))).writeByte s.i.toNat 1
        (tens (s.readV x))).writeByte s.i.toNat 2 (ones (s.readV x)))) with ⟨h, e⟩ | ⟨a, h, e⟩
    · right; exact ⟨by simp [State.instrError, h], _, .inl ⟨e, by simp, by simp⟩⟩
    · left; exact ⟨_, by simp only [State.instrError, h]; rfl, e⟩
  case ldStore x =>
    rcases checked_cases s s.i.toNat (x.toNat + 1) (complete
      ((s.advance.storeRegs s.i.toNat (x.toNat + 1)).bumpI (x.toNat + 1))) with ⟨h, e⟩ | ⟨a, h, e⟩
    · right; exact ⟨by simp [State.instrError, h], _, .inl ⟨e, by simp, by simp⟩⟩
    · left; exact ⟨_, by simp only [State.instrError, h]; rfl, e⟩
  case ldLoad x =>
    rcases checked_cases s s.i.toNat (x.toNat + 1) (complete
      ((s.advance.loadRegs s.i.toNat (x.toNat + 1)).bumpI (x.toNat + 1))) with ⟨h, e⟩ | ⟨a, h, e⟩
    · right; exact ⟨by simp [State.instrError, h], _, .inl ⟨e, by simp, by simp⟩⟩
    · left; exact ⟨_, by simp only [State.instrError, h]; rfl, e⟩
  all_goals
    right
    exact ⟨rfl, _, .inl ⟨rfl, by simp, by simp⟩⟩

/-- A step of the machine is one transaction on a state that differs from `s` only in what is pending or drawn
(60_exceptions.md R239; log 1, 2). -/
theorem step_cases (s : State) :
    (∃ u rest, s.pending = u :: rest ∧ step s = runTransaction u { s with pending := rest }) ∨
    (s.pending = [] ∧ step s =
      runTransaction (.step (Config.freeKeys s.draws) (Config.freeRnd s.draws)) { s with draws := s.draws + 1 }) := by
  rcases s.nextTransaction_cases with ⟨u, rest, h1, h2⟩ | ⟨h1, h2⟩
  · exact .inl ⟨u, rest, h1, by rw [step, h2]⟩
  · exact .inr ⟨h1, by rw [step, h2]⟩

end Sys2Proof.Machine
end

