-- ==== Sys2Proof/Laws/PerInstr.lean ====
section
/-! SUPPORT. One lemma per instruction: its word matches the row of the opcode table that bears its mnemonic
(30_encoding.md R73), whatever its operands. -/

namespace Sys2Proof.Laws.OwnRow

/-- The encoding of `i` matches a row of the opcode table with the mnemonic of `i`. -/
def Statement (i : Instr) : Prop := ∃ r ∈ opcodeTable, r.hits (encode i) = true ∧ r.mnemonic = i.mnemonic

/-- A word of the form family, X, NN masked to family and NN. -/
theorem maskFNN (f : BitVec 4) (x : Reg) (nn : Byte) : wordXNN f x nn &&& 0xF0FF = wordXNN f 0 nn := by
  apply BitVec.eq_of_getLsbD_eq; intro k hk
  rw [BitVec.getLsbD_and, getLsbD_wordXNN, getLsbD_wordXNN]
  interval_cases k <;> simp

/-- A word of the form family, X, NN masked to the family. -/
theorem maskFX (f : BitVec 4) (x : Reg) (nn : Byte) : wordXNN f x nn &&& 0xF000 = wordXNN f 0 0 := by
  apply BitVec.eq_of_getLsbD_eq; intro k hk
  rw [BitVec.getLsbD_and, getLsbD_wordXNN, getLsbD_wordXNN]
  interval_cases k <;> simp

/-- A word of the form family, X, Y, N masked to family and N. -/
theorem maskFN (f : BitVec 4) (x y : Reg) (n : Nibble) : wordXYN f x y n &&& 0xF00F = wordXYN f 0 0 n := by
  apply BitVec.eq_of_getLsbD_eq; intro k hk
  rw [BitVec.getLsbD_and, getLsbD_wordXYN, getLsbD_wordXYN]
  interval_cases k <;> simp

/-- A word of the form family, X, Y, N masked to the family. -/
theorem maskFXY (f : BitVec 4) (x y : Reg) (n : Nibble) : wordXYN f x y n &&& 0xF000 = wordXYN f 0 0 0 := by
  apply BitVec.eq_of_getLsbD_eq; intro k hk
  rw [BitVec.getLsbD_and, getLsbD_wordXYN, getLsbD_wordXYN]
  interval_cases k <;> simp

/-- A word of the form family, NNN masked to the family. -/
theorem maskF (f : BitVec 4) (nnn : Addr) : wordNNN f nnn &&& 0xF000 = wordNNN f 0 := by
  apply BitVec.eq_of_getLsbD_eq; intro k hk
  rw [BitVec.getLsbD_and, getLsbD_wordNNN, getLsbD_wordNNN]
  interval_cases k <;> simp

theorem cls : Statement .cls := by
  refine ⟨⟨"CLS", 0xFFFF, 0x00E0⟩, by decide, by decide, rfl⟩

theorem ret : Statement .ret := by
  refine ⟨⟨"RET", 0xFFFF, 0x00EE⟩, by decide, by decide, rfl⟩

theorem jp (nnn : Addr) : Statement (.jp nnn) := by
  refine ⟨⟨"JP_addr", 0xF000, 0x1000⟩, by decide, ?_, rfl⟩
  simp only [OpRow.hits, encode, maskF]; decide

theorem call (nnn : Addr) : Statement (.call nnn) := by
  refine ⟨⟨"CALL_addr", 0xF000, 0x2000⟩, by decide, ?_, rfl⟩
  simp only [OpRow.hits, encode, maskF]; decide

theorem seImm (x : Reg) (nn : Byte) : Statement (.seImm x nn) := by
  refine ⟨⟨"SE_Vx__byte", 0xF000, 0x3000⟩, by decide, ?_, rfl⟩
  simp only [OpRow.hits, encode, maskFX]; decide

theorem sneImm (x : Reg) (nn : Byte) : Statement (.sneImm x nn) := by
  refine ⟨⟨"SNE_Vx__byte", 0xF000, 0x4000⟩, by decide, ?_, rfl⟩
  simp only [OpRow.hits, encode, maskFX]; decide

theorem seReg (x y : Reg) : Statement (.seReg x y) := by
  refine ⟨⟨"SE_Vx__Vy", 0xF00F, 0x5000⟩, by decide, ?_, rfl⟩
  simp only [OpRow.hits, encode, maskFN]; decide

theorem ldImm (x : Reg) (nn : Byte) : Statement (.ldImm x nn) := by
  refine ⟨⟨"LD_Vx__byte", 0xF000, 0x6000⟩, by decide, ?_, rfl⟩
  simp only [OpRow.hits, encode, maskFX]; decide

theorem addImm (x : Reg) (nn : Byte) : Statement (.addImm x nn) := by
  refine ⟨⟨"ADD_Vx__byte", 0xF000, 0x7000⟩, by decide, ?_, rfl⟩
  simp only [OpRow.hits, encode, maskFX]; decide

theorem ldReg (x y : Reg) : Statement (.ldReg x y) := by
  refine ⟨⟨"LD_Vx__Vy", 0xF00F, 0x8000⟩, by decide, ?_, rfl⟩
  simp only [OpRow.hits, encode, maskFN]; decide

theorem orReg (x y : Reg) : Statement (.orReg x y) := by
  refine ⟨⟨"OR_Vx__Vy", 0xF00F, 0x8001⟩, by decide, ?_, rfl⟩
  simp only [OpRow.hits, encode, maskFN]; decide

theorem andReg (x y : Reg) : Statement (.andReg x y) := by
  refine ⟨⟨"AND_Vx__Vy", 0xF00F, 0x8002⟩, by decide, ?_, rfl⟩
  simp only [OpRow.hits, encode, maskFN]; decide

theorem xorReg (x y : Reg) : Statement (.xorReg x y) := by
  refine ⟨⟨"XOR_Vx__Vy", 0xF00F, 0x8003⟩, by decide, ?_, rfl⟩
  simp only [OpRow.hits, encode, maskFN]; decide

theorem addReg (x y : Reg) : Statement (.addReg x y) := by
  refine ⟨⟨"ADD_Vx__Vy", 0xF00F, 0x8004⟩, by decide, ?_, rfl⟩
  simp only [OpRow.hits, encode, maskFN]; decide

theorem sub (x y : Reg) : Statement (.sub x y) := by
  refine ⟨⟨"SUB_Vx__Vy", 0xF00F, 0x8005⟩, by decide, ?_, rfl⟩
  simp only [OpRow.hits, encode, maskFN]; decide

theorem shr (x y : Reg) : Statement (.shr x y) := by
  refine ⟨⟨"SHR_Vx____Vy", 0xF00F, 0x8006⟩, by decide, ?_, rfl⟩
  simp only [OpRow.hits, encode, maskFN]; decide

theorem subn (x y : Reg) : Statement (.subn x y) := by
  refine ⟨⟨"SUBN_Vx__Vy", 0xF00F, 0x8007⟩, by decide, ?_, rfl⟩
  simp only [OpRow.hits, encode, maskFN]; decide

theorem shl (x y : Reg) : Statement (.shl x y) := by
  refine ⟨⟨"SHL_Vx____Vy", 0xF00F, 0x800E⟩, by decide, ?_, rfl⟩
  simp only [OpRow.hits, encode, maskFN]; decide

theorem sneReg (x y : Reg) : Statement (.sneReg x y) := by
  refine ⟨⟨"SNE_Vx__Vy", 0xF00F, 0x9000⟩, by decide, ?_, rfl⟩
  simp only [OpRow.hits, encode, maskFN]; decide

theorem ldI (nnn : Addr) : Statement (.ldI nnn) := by
  refine ⟨⟨"LD_I__addr", 0xF000, 0xA000⟩, by decide, ?_, rfl⟩
  simp only [OpRow.hits, encode, maskF]; decide

theorem jpV0 (nnn : Addr) : Statement (.jpV0 nnn) := by
  refine ⟨⟨"JP_V0__addr", 0xF000, 0xB000⟩, by decide, ?_, rfl⟩
  simp only [OpRow.hits, encode, maskF]; decide

theorem rnd (x : Reg) (nn : Byte) : Statement (.rnd x nn) := by
  refine ⟨⟨"RND_Vx__byte", 0xF000, 0xC000⟩, by decide, ?_, rfl⟩
  simp only [OpRow.hits, encode, maskFX]; decide

theorem drw (x y : Reg) (n : Nibble) : Statement (.drw x y n) := by
  refine ⟨⟨"DRW_Vx__Vy__nibble", 0xF000, 0xD000⟩, by decide, ?_, rfl⟩
  simp only [OpRow.hits, encode, maskFXY]; decide

theorem skp (x : Reg) : Statement (.skp x) := by
  refine ⟨⟨"SKP_Vx", 0xF0FF, 0xE09E⟩, by decide, ?_, rfl⟩
  simp only [OpRow.hits, encode, maskFNN]; decide

theorem sknp (x : Reg) : Statement (.sknp x) := by
  refine ⟨⟨"SKNP_Vx", 0xF0FF, 0xE0A1⟩, by decide, ?_, rfl⟩
  simp only [OpRow.hits, encode, maskFNN]; decide

theorem ldVxDt (x : Reg) : Statement (.ldVxDt x) := by
  refine ⟨⟨"LD_Vx__DT", 0xF0FF, 0xF007⟩, by decide, ?_, rfl⟩
  simp only [OpRow.hits, encode, maskFNN]; decide

theorem ldVxK (x : Reg) : Statement (.ldVxK x) := by
  refine ⟨⟨"LD_Vx__K", 0xF0FF, 0xF00A⟩, by decide, ?_, rfl⟩
  simp only [OpRow.hits, encode, maskFNN]; decide

theorem ldDtVx (x : Reg) : Statement (.ldDtVx x) := by
  refine ⟨⟨"LD_DT__Vx", 0xF0FF, 0xF015⟩, by decide, ?_, rfl⟩
  simp only [OpRow.hits, encode, maskFNN]; decide

theorem ldStVx (x : Reg) : Statement (.ldStVx x) := by
  refine ⟨⟨"LD_ST__Vx", 0xF0FF, 0xF018⟩, by decide, ?_, rfl⟩
  simp only [OpRow.hits, encode, maskFNN]; decide

theorem addI (x : Reg) : Statement (.addI x) := by
  refine ⟨⟨"ADD_I__Vx", 0xF0FF, 0xF01E⟩, by decide, ?_, rfl⟩
  simp only [OpRow.hits, encode, maskFNN]; decide

theorem ldF (x : Reg) : Statement (.ldF x) := by
  refine ⟨⟨"LD_F__Vx", 0xF0FF, 0xF029⟩, by decide, ?_, rfl⟩
  simp only [OpRow.hits, encode, maskFNN]; decide

theorem ldB (x : Reg) : Statement (.ldB x) := by
  refine ⟨⟨"LD_B__Vx", 0xF0FF, 0xF033⟩, by decide, ?_, rfl⟩
  simp only [OpRow.hits, encode, maskFNN]; decide

theorem ldStore (x : Reg) : Statement (.ldStore x) := by
  refine ⟨⟨"LD__I___Vx", 0xF0FF, 0xF055⟩, by decide, ?_, rfl⟩
  simp only [OpRow.hits, encode, maskFNN]; decide

theorem ldLoad (x : Reg) : Statement (.ldLoad x) := by
  refine ⟨⟨"LD_Vx___I", 0xF0FF, 0xF065⟩, by decide, ?_, rfl⟩
  simp only [OpRow.hits, encode, maskFNN]; decide

end Sys2Proof.Laws.OwnRow
end

