-- ==== Sys2Proof/Tests/Slice0.lean ====
section
/-! SUPPORT. The model's own tests. Expected values are the spec's: the ids VC, VR, VM, VD, VK, VT, VX, VI, VP and W are
the vectors of 95_test_vectors.md; words are written out from the patterns of 30_encoding.md R73. Then a witness for the
hypotheses of every statement that has some. -/

namespace Sys2Proof.Tests

open Sys2Proof Sys2Proof.Machine

/-! ### WellFormed: each check refuses an ill-formed term -/

/-- One illegal word of each class of R75. -/
theorem test_legalWord_refuses :
    [0x0123, 0x5121, 0x8128, 0x912F, 0xE1FF, 0xF1FF].map (fun w : Word => legalWord w) =
      [false, false, false, false, false, false] := by decide

theorem test_legalWord_accepts :
    [0x00E0, 0x5120, 0x812E, 0x9120, 0xE1A1, 0xF165].map (fun w : Word => legalWord w) =
      [true, true, true, true, true, true] := by decide

/-- W10. -/
theorem test_imageFits :
    imageFits (List.replicate 3584 0) = true ∧ imageFits (List.replicate 3585 0) = false := by
  simp only [imageFits, List.length_replicate]; decide

/-! ### Decode: a word of every constructor, written out from its pattern -/

theorem test_decode_control_flow :
    decode 0x00EE = .instr .ret ∧ decode 0x1ABC = .instr (.jp 0xABC) ∧ decode 0x2DEF = .instr (.call 0xDEF) ∧
    decode 0x3A5C = .instr (.seImm 0xA 0x5C) ∧ decode 0x4B3E = .instr (.sneImm 0xB 0x3E) ∧
    decode 0x5AB0 = .instr (.seReg 0xA 0xB) ∧ decode 0x9CD0 = .instr (.sneReg 0xC 0xD) ∧
    decode 0xB123 = .instr (.jpV0 0x123) := by decide

theorem test_decode_register_ops :
    decode 0x6AFF = .instr (.ldImm 0xA 0xFF) ∧ decode 0x7F01 = .instr (.addImm 0xF 0x01) ∧
    decode 0x8120 = .instr (.ldReg 1 2) ∧ decode 0x8121 = .instr (.orReg 1 2) ∧
    decode 0x8122 = .instr (.andReg 1 2) ∧ decode 0x8123 = .instr (.xorReg 1 2) ∧
    decode 0x8124 = .instr (.addReg 1 2) ∧ decode 0x8125 = .instr (.sub 1 2) ∧
    decode 0x8126 = .instr (.shr 1 2) ∧ decode 0x8127 = .instr (.subn 1 2) ∧
    decode 0x812E = .instr (.shl 1 2) := by decide

theorem test_decode_index_memory :
    decode 0xA123 = .instr (.ldI 0x123) ∧ decode 0xF41E = .instr (.addI 4) ∧ decode 0xF529 = .instr (.ldF 5) ∧
    decode 0xF633 = .instr (.ldB 6) ∧ decode 0xF755 = .instr (.ldStore 7) ∧ decode 0xF865 = .instr (.ldLoad 8) := by
  decide

theorem test_decode_display_input_timers_random :
    decode 0x00E0 = .instr .cls ∧ decode 0xD12F = .instr (.drw 1 2 0xF) ∧
    decode 0xE39E = .instr (.skp 3) ∧ decode 0xE4A1 = .instr (.sknp 4) ∧ decode 0xF50A = .instr (.ldVxK 5) ∧
    decode 0xF607 = .instr (.ldVxDt 6) ∧ decode 0xF715 = .instr (.ldDtVx 7) ∧ decode 0xF818 = .instr (.ldStVx 8) ∧
    decode 0xC95A = .instr (.rnd 9 0x5A) := by decide

/-- VP9, VP10, and the all-zero and all-one words. -/
theorem test_decode_rejects_by_name :
    decode 0x0123 = .invalid .machineCode ∧ decode 0x0000 = .invalid .machineCode ∧
    decode 0x5121 = .invalid .family5 ∧ decode 0x8128 = .invalid .family8 ∧ decode 0x912F = .invalid .family9 ∧
    decode 0xE1FF = .invalid .familyE ∧ decode 0xF1FF = .invalid .familyF ∧ decode 0xFFFF = .invalid .familyF := by
  decide

/-- W11: high byte first; two bytes are needed, and the bytes after them are another instruction's. -/
theorem test_decodeBytes :
    decodeBytes [0x60, 0x05] = .instr (.ldImm 0 5) ∧ decodeBytes [0x60, 0x05, 0x61] = .instr (.ldImm 0 5) ∧
    decodeBytes [0x60] = .invalid .truncated ∧ decodeBytes [] = .invalid .truncated := by decide

theorem test_decodeTableWord :
    decodeTableWord 16 0x6005 = some (.ldImm 0 5) ∧ decodeTableWord 16 0x0000 = none := by decide

theorem test_encodeBytes : encodeBytes (.drw 0 1 5) = [0xD0, 0x15] := by decide

/-! ### One step -/

/-- A state after reset with these registers written. -/
def withRegs (l : List (Reg × Byte)) : State := l.foldl (fun s p => s.writeV p.1 p.2) State.reset

/-- `s` with these bytes stored from address `a`. -/
def withBytes (s : State) (a : Nat) (bytes : List Byte) : State :=
  (bytes.zipIdx).foldl (fun s p => s.writeAddr (a + p.2) p.1) s

/-- What a step with the word at pc, and these inputs, leaves of `s`; none if it does not answer a next state. -/
def ranWith {α : Type} (keys : Keys) (rnd : Byte) (w : Word) (s : State) (f : State → α) : Option α :=
  match step { s.withFetchWord 16 w.toNat with pending := [.step keys rnd] } with
  | .next t => some (f t)
  | _ => none

/-- The same with no key down and a zero random byte. -/
abbrev ran {α : Type} (w : Word) (s : State) (f : State → α) : Option α := ranWith 0 0 w s f

/-- VC1, VC2. -/
theorem test_jp : ran 0x1ABC State.reset State.pc = some 0xABC ∧ ran 0x1201 State.reset State.pc = some 0x201 := by
  decide

/-- VC3. -/
theorem test_call : ran 0x2400 State.reset (fun t => (t.pc, t.stack)) = some (0x400, [0x202]) := by decide

/-- A full stack. -/
def full : State := { State.reset with stack := List.replicate 16 0x202 }

/-- VC4. -/
theorem test_call_overflow :
    ran 0x2400 full (fun t => (t.pc, t.stack.length, t.run, t.result)) =
      some (0x200, 16, .halted, .fatal (.stackOverflow 0x200)) := by decide

/-- VC5: the last entry is the one popped. -/
theorem test_ret :
    ran 0x00EE { State.reset with pc := 0x400, stack := [0x304, 0x202] } (fun t => (t.pc, t.stack)) =
      some (0x202, [0x304]) := by decide

/-- VC6. -/
theorem test_ret_underflow :
    ran 0x00EE State.reset (fun t => (t.pc, t.run, t.result)) =
      some (0x200, .halted, .fatal (.stackUnderflow 0x200)) := by decide

/-- VC7, VC8: the sum does not wrap at 12 bits. -/
theorem test_jpV0 :
    ran 0xB300 (withRegs [(0, 2)]) State.pc = some 0x302 ∧
    ran 0xBFFF (withRegs [(0, 0xFF)]) State.pc = some 0x10FE := by decide

/-- VC9. -/
theorem test_jpV0_usesVx :
    ran 0xB300 { withRegs [(3, 0x10)] with cfg := { standardConfig with jumpUsesVx := true } } State.pc = some 0x310 := by
  decide

/-- VC18, W8. -/
theorem test_seImm :
    ran 0x3F01 (withRegs [(0xF, 1)]) State.pc = some 0x204 ∧ ran 0x3005 (withRegs [(0, 6)]) State.pc = some 0x202 := by
  decide

/-- VC11, VC12. -/
theorem test_sneImm :
    ran 0x4005 (withRegs [(0, 5)]) State.pc = some 0x202 ∧ ran 0x4005 (withRegs [(0, 6)]) State.pc = some 0x204 := by
  decide

/-- VC13, VC14. -/
theorem test_seReg :
    ran 0x5440 (withRegs [(4, 0x11)]) State.pc = some 0x204 ∧
    ran 0x5010 (withRegs [(0, 1), (1, 2)]) State.pc = some 0x202 := by decide

/-- VC15, VC16. -/
theorem test_sneReg :
    ran 0x9010 (withRegs [(0, 1), (1, 2)]) State.pc = some 0x204 ∧
    ran 0x9440 (withRegs [(4, 0x11)]) State.pc = some 0x202 := by decide

/-- VR1. -/
theorem test_ldImm : ran 0x6AFF State.reset (·.readV 0xA) = some 0xFF := by decide

/-- VR2: no flag. -/
theorem test_addImm_wraps :
    ran 0x7001 (withRegs [(0, 0xFF), (0xF, 0x55)]) (fun t => (t.readV 0, t.readV 0xF)) = some (0, 0x55) := by decide

/-- VR4. -/
theorem test_ldReg : ran 0x8120 (withRegs [(2, 0x33)]) (·.readV 1) = some 0x33 := by decide

/-- VR5, VR6. -/
theorem test_orReg :
    ran 0x8011 (withRegs [(0, 0x0F), (1, 0xF0), (0xF, 7)]) (fun t => (t.readV 0, t.readV 0xF)) = some (0xFF, 7) := by
  decide

theorem test_orReg_resetsVf :
    ran 0x8011 { withRegs [(0, 0x0F), (1, 0xF0), (0xF, 7)] with cfg := { standardConfig with logicResetsVf := true } }
      (fun t => (t.readV 0, t.readV 0xF)) = some (0xFF, 0) := by decide

/-- VR7. -/
theorem test_andReg : ran 0x8012 (withRegs [(0, 0x3C), (1, 0x0F)]) (·.readV 0) = some 0x0C := by decide

/-- VR8, VR9. -/
theorem test_xorReg :
    ran 0x8013 (withRegs [(0, 0xFF), (1, 0x0F)]) (·.readV 0) = some 0xF0 ∧
    ran 0x8553 (withRegs [(5, 0xA5)]) (·.readV 5) = some 0 := by decide

/-- VR10, VR11. -/
theorem test_addReg :
    ran 0x8014 (withRegs [(0, 0xFF), (1, 1)]) (fun t => (t.readV 0, t.readV 0xF)) = some (0, 1) ∧
    ran 0x8014 (withRegs [(0, 0x80), (1, 0x7F)]) (fun t => (t.readV 0, t.readV 0xF)) = some (0xFF, 0) := by decide

/-- VR13, VR14: VF as destination and as source. -/
theorem test_addReg_vf :
    ran 0x8F14 (withRegs [(0xF, 0xFF), (1, 1)]) (·.readV 0xF) = some 1 ∧
    ran 0x80F4 (withRegs [(0, 0x10), (0xF, 0xF0)]) (fun t => (t.readV 0, t.readV 0xF)) = some (0, 1) := by decide

/-- VR15, VR17. -/
theorem test_sub :
    ran 0x8015 (withRegs [(0, 5), (1, 7)]) (fun t => (t.readV 0, t.readV 0xF)) = some (0xFE, 0) ∧
    ran 0x8015 (withRegs [(0, 7), (1, 7)]) (fun t => (t.readV 0, t.readV 0xF)) = some (0, 1) := by decide

/-- VR19. -/
theorem test_sub_vf : ran 0x8F15 (withRegs [(0xF, 5), (1, 7)]) (·.readV 0xF) = some 0 := by decide

/-- VR20, VR21. -/
theorem test_subn :
    ran 0x8017 (withRegs [(0, 7), (1, 5)]) (fun t => (t.readV 0, t.readV 0xF)) = some (0xFE, 0) ∧
    ran 0x8017 (withRegs [(0, 5), (1, 7)]) (fun t => (t.readV 0, t.readV 0xF)) = some (2, 1) := by decide

/-- VR22, VR24. -/
theorem test_shr :
    ran 0x8006 (withRegs [(0, 5)]) (fun t => (t.readV 0, t.readV 0xF)) = some (2, 1) ∧
    ran 0x8016 (withRegs [(0, 4), (1, 0xFF)]) (fun t => (t.readV 0, t.readV 0xF)) = some (2, 0) := by decide

/-- VR25. -/
theorem test_shr_usesVy :
    ran 0x8016 { withRegs [(0, 4), (1, 0xFF)] with cfg := { standardConfig with shiftUsesVy := true } }
      (fun t => (t.readV 0, t.readV 0xF)) = some (0x7F, 1) := by decide

/-- VR28, VR30. -/
theorem test_shl :
    ran 0x820E (withRegs [(2, 0x81)]) (fun t => (t.readV 2, t.readV 0xF)) = some (2, 1) ∧
    ran 0x8F0E (withRegs [(0xF, 0x80)]) (·.readV 0xF) = some 1 := by decide

/-- VM1. -/
theorem test_ldI : ran 0xA123 State.reset State.i = some 0x123 := by decide

/-- VM2, VM3. -/
theorem test_addI :
    ran 0xF01E { withRegs [(0, 1)] with i := 0xFFF } (fun t => (t.i, t.readV 0xF)) = some (0x1000, 0) ∧
    ran 0xF01E { withRegs [(0, 2)] with i := 0xFFFF } State.i = some 1 := by decide

/-- VM4, VM5. -/
theorem test_ldF :
    ran 0xF029 (withRegs [(0, 0x0A)]) State.i = some 0x32 ∧ ran 0xF029 (withRegs [(0, 0x1F)]) State.i = some 0x4B := by
  decide

/-- Bytes of memory. -/
def bytesAt (l : List Nat) (t : State) : List Byte := l.map t.readAddr

/-- VM7, and 123 for the order of the digits. -/
theorem test_ldB :
    ran 0xF033 { withRegs [(0, 123)] with i := 0x300 } (bytesAt [0x300, 0x301, 0x302]) = some [1, 2, 3] ∧
    ran 0xF033 { withRegs [(0, 255)] with i := 0x300 } (bytesAt [0x300, 0x301, 0x302]) = some [2, 5, 5] := by decide

/-- VM9. -/
theorem test_ldB_out_of_range :
    ran 0xF033 { withRegs [(0, 7)] with i := 0xFFE } (fun t => (t.result, bytesAt [0xFFE, 0xFFF] t)) =
      some (.fatal (.memoryAccessOutOfRange 0x200 0x1000), [0, 0]) := by decide

/-- VM10, VM13. -/
theorem test_ldStore :
    ran 0xF055 { withRegs [(0, 0xAB), (1, 1)] with i := 0x400 } (fun t => (t.i, bytesAt [0x400, 0x401] t)) =
      some (0x400, [0xAB, 0]) := by decide

theorem test_ldStore_increments :
    ran 0xF255 { withRegs [(0, 1), (1, 2), (2, 3)] with
      i := 0x400, cfg := { standardConfig with loadstoreIncrementsI := true } }
      (fun t => (t.i, bytesAt [0x400, 0x401, 0x402] t)) = some (0x403, [1, 2, 3]) := by decide

/-- VM14. -/
theorem test_ldLoad :
    ran 0xF465 State.reset (fun t => ([t.readV 0, t.readV 1, t.readV 2, t.readV 3, t.readV 4, t.readV 5], t.i)) =
      some ([0xF0, 0x90, 0x90, 0x90, 0xF0, 0], 0) := by decide

/-- VM16. -/
theorem test_ldLoad_out_of_range :
    ran 0xF065 { State.reset with i := 0x1000 } State.result =
      some (.fatal (.memoryAccessOutOfRange 0x200 0x1000)) := by decide

/-- Some pixels, columns then rows. -/
def pixels (l : List (Nat × Nat)) (t : State) : List Bool := l.map fun p => t.pixel p.1 p.2

/-- VD1. -/
theorem test_cls :
    ran 0x00E0 { withRegs [(0xF, 1)] with fb := Framebuffer.flip Framebuffer.clear 3 4 }
      (fun t => (t.pixel 3 4, t.readV 0xF)) = some (false, 1) := by decide

/-- VD6: columns wrap; bit 7 is the leftmost. -/
theorem test_drw_wraps :
    ran 0xD011 (withBytes { withRegs [(0, 62)] with i := 0x300 } 0x300 [0xFE])
      (fun t => (pixels [(61, 0), (62, 0), (63, 0), (0, 0), (4, 0), (5, 0)] t, t.readV 0xF)) =
      some ([false, true, true, true, true, false], 0) := by decide

/-- VD4: a collision. -/
theorem test_drw_collides :
    ran 0xD011 { withRegs [(0, 5), (1, 5)] with fb := Framebuffer.flip Framebuffer.clear 5 5 }
      (fun t => (pixels [(5, 5), (6, 5), (7, 5), (8, 5), (9, 5)] t, t.readV 0xF)) =
      some ([false, true, true, true, false], 1) := by decide

/-- VK1, VK5. -/
theorem test_skp :
    ranWith 0x0010 0 0xE19E (withRegs [(1, 4)]) State.pc = some 0x204 ∧
    ranWith 0x0010 0 0xE19E (withRegs [(1, 0x14)]) State.pc = some 0x204 := by decide

/-- VK3, VK4. -/
theorem test_sknp :
    ranWith 0x0000 0 0xE1A1 (withRegs [(1, 4)]) State.pc = some 0x204 ∧
    ranWith 0x0010 0 0xE1A1 (withRegs [(1, 4)]) State.pc = some 0x202 := by decide

/-- VK10. -/
theorem test_ldVxK_entry :
    ranWith 0x0002 0 0xF00A State.reset (fun t => (t.pc, t.run, t.result, t.prevKeys)) =
      some (0x200, .awaitingKey 0, .waiting, 0x0002) := by decide

/-- What a transaction leaves of `s`. -/
def after {α : Type} (u : Transaction) (s : State) (f : State → α) : Option α :=
  match runTransaction u s with
  | .next t => some (f t)
  | _ => none

/-- VK7's second step: the lowest of keys 2 and 8; and its continuation when no key is new. -/
theorem test_key_wait_ends :
    after (.step 0x0104 0) { State.reset with run := .awaitingKey 5 } (fun t => (t.readV 5, t.pc, t.run, t.result)) =
      some (2, 0x202, .ready, .ok) ∧
    after (.step 0x0001 0) { State.reset with run := .awaitingKey 5, prevKeys := 0x0001 }
      (fun t => (t.readV 5, t.pc, t.run, t.result)) = some (0, 0x200, .awaitingKey 5, .waiting) := by decide

/-- VT1. -/
theorem test_ldVxDt : ran 0xF007 { State.reset with dt := 0x3C } (fun t => (t.readV 0, t.dt)) = some (0x3C, 0x3C) := by
  decide

/-- VT2. -/
theorem test_ldDtVx : ran 0xF015 (withRegs [(0, 0x3C)]) (fun t => (t.dt, t.st)) = some (0x3C, 0) := by decide

/-- VT3. -/
theorem test_ldStVx :
    ran 0xF118 (withRegs [(1, 2)]) (fun t => (t.st, t.dt, t.soundActive)) = some (2, 0, true) := by decide

/-- VX1, VX3. -/
theorem test_rnd :
    ranWith 0 0xA7 0xC00F State.reset (·.readV 0) = some 7 ∧
    ranWith 0 0x5A 0xCFFF State.reset (·.readV 0xF) = some 0x5A := by decide

/-! ### The step and the host's transactions -/

/-- VP4, VP2. -/
theorem test_fetch_errors :
    after (.step 0 0) { State.reset with pc := 0xFFF } (fun t => (t.pc, t.run, t.result)) =
      some (0xFFF, .halted, .fatal (.memoryAccessOutOfRange 0xFFF 0x1000)) ∧
    after (.step 0 0) State.reset (fun t => (t.pc, t.run, t.result)) =
      some (0x200, .halted, .fatal (.invalidOpcode 0x200 0x0000)) := by decide

/-- VP5, VP7. -/
theorem test_fetch_last_word :
    after (.step 0 0) (withBytes { State.reset with pc := 0xFFE } 0xFFE [0x60, 0x2A]) (fun t => (t.readV 0, t.pc)) =
      some (0x2A, 0x1000) ∧
    after (.step 0 0) (withBytes { State.reset with pc := 0xFFF, cfg := { standardConfig with addrPolicy := .mask } }
      0xFFF [0x61]) (fun t => (t.readV 1, t.pc)) = some (0xF0, 0x1001) := by decide

/-- VP1. -/
theorem test_step_halted :
    after (.step 0xFFFF 0) { State.reset with run := .halted, pc := 0x234 } (fun t => (t.pc, t.run, t.result, t.prevKeys)) =
      some (0x234, .halted, .notRunning, 0) := by decide

/-- W12, W3, VT6. -/
theorem test_tick :
    after .tick { State.reset with dt := 2 } (fun t => (t.dt, t.st)) = some (1, 0) ∧
    after .tick { State.reset with run := .halted, dt := 5 } (fun t => (t.dt, t.st, t.run)) = some (4, 0, .halted) := by
  decide

/-- The codes of 60_exceptions.md R220, as the transactions that raise them leave them. -/
theorem test_error_codes :
    after (.step 0 0) State.reset State.errorCode = some (some 1) ∧
    ran 0x2400 full State.errorCode = some (some 2) ∧ ran 0x00EE State.reset State.errorCode = some (some 3) ∧
    ran 0xF065 { State.reset with i := 0x1000 } State.errorCode = some (some 4) ∧
    ran 0x00E0 State.reset State.errorCode = some none := by decide

/-- Code 0 (R220): whatever image does not fit, such as that of W10 (test_imageFits). -/
theorem test_error_code_image (image : List Byte) (h : imageFits image = false) :
    after (.load image) State.reset State.errorCode = some (some 0) := by
  simp [after, runTransaction, runLoad, h, State.errorCode, Result.errorKind, ErrorKind.code]

/-- VI2. -/
theorem test_initialize :
    after (.load [0x12, 0x00]) (withBytes State.reset 0x202 [1, 2])
      (fun t => (bytesAt [0x000, 0x050, 0x200, 0x201, 0x202, 0x203] t, t.image, t.result)) =
      some ([0xF0, 0, 0x12, 0, 0, 0], [0x12, 0x00], .ok) := by decide

/-- VI1. -/
theorem test_reset :
    after .reset (withBytes { withRegs [(3, 7)] with run := .halted, pc := 0x300, image := [0x12] } 0 [0x00])
      (fun t => (bytesAt [0x000, 0x200] t, t.readV 3, t.run, t.pc)) = some ([0xF0, 0x12], 0, .ready, 0x200) := by decide

/-- With nothing pending the next step still runs the word placed for it, as the first after reset. -/
theorem test_withFetchWord :
    (match step (State.reset.withFetchWord 16 0x6A42) with
      | .next t => some (t.readV 0xA, t.pc)
      | _ => none) = some (0x42, 0x202) := by decide

/-- The canonical form: storing what an unlisted address reads as leaves no entry. -/
theorem test_memory_canonical :
    (withBytes State.reset 0x300 [1, 0, 2]).mem = [(0x300, 1), (0x302, 2)] ∧
    (withBytes (withBytes State.reset 0x300 [1]) 0x300 [0]).mem = [] ∧
    (withBytes State.reset 0 [0xF0]).mem = [] := by decide

/-! ### Witnesses: states and operands that meet the hypotheses of the statements, clause by clause -/

/-- The masking machine. -/
def masked : State := { State.reset with cfg := { standardConfig with addrPolicy := .mask } }

/-- A machine with a word at 0x200. -/
def holding (w : Word) : State := State.reset.withFetchWord 16 w.toNat

theorem test_reset_wf : State.reset.Wf := ⟨by decide, by decide, by decide⟩

theorem test_witness_EncodeOfDecode : decode 0xDFFF = .instr (.drw 0xF 0xF 0xF) := by decide

theorem test_witness_DecodeFollowsOpcodeTable :
    decode 0x812E = .instr (.shl 1 2) ∧ decode 0x812F = .invalid .family8 := by decide

theorem test_witness_OpcodeRowsDisjoint : ∃ r ∈ opcodeTable, r.hits 0xF165 = true := by decide

/-- Clause by clause: a step pending, and nothing pending; the last word of memory. -/
theorem test_witness_StepRunsDecodedInstruction :
    ∃ s : State, s.run = .ready ∧ InRange s.cfg s.pc.toNat 2 ∧ s.pc = 0xFFE ∧
      decode (s.readAddr (byteAddr s.cfg s.pc.toNat 0) ++ s.readAddr (byteAddr s.cfg s.pc.toNat 1)) =
        .instr (.ldImm 0 0x2A) ∧
      (s.pending = [] ∧ ({ s with pending := [.step 1 2] }).pending = .step 1 2 :: []) :=
  ⟨withBytes { State.reset with pc := 0xFFE } 0xFFE [0x60, 0x2A], by decide, fun _ _ => by decide, by decide, by decide,
    by decide⟩

/-- Under `check` 0xFFF and 0xFFE, and under `mask` 0xFFF. -/
theorem test_witness_FetchWordOrRangeError :
    (({ State.reset with pc := 0xFFF } : State).run = .ready ∧ State.reset.cfg.addrPolicy = .check ∧
      0xFFF ≤ ({ State.reset with pc := 0xFFF } : State).pc.toNat) ∧
    (∃ s : State, s.run = .ready ∧ s.cfg.addrPolicy = .check ∧ s.pc = 0xFFE ∧ s.pc.toNat < 0xFFF ∧
      (0x602A : Word).toNat = 256 * (s.readAddr s.pc.toNat).toNat + (s.readAddr (s.pc.toNat + 1)).toNat ∧
      decode 0x602A = .instr (.ldImm 0 0x2A)) ∧
    (∃ s : State, s.run = .ready ∧ s.cfg.addrPolicy = .mask ∧ s.pc = 0xFFF ∧
      (0x61F0 : Word).toNat =
        256 * (s.readAddr (s.pc.toNat % 4096)).toNat + (s.readAddr ((s.pc.toNat + 1) % 4096)).toNat ∧
      decode 0x61F0 = .instr (.ldImm 1 0xF0)) :=
  ⟨by decide, ⟨withBytes { State.reset with pc := 0xFFE } 0xFFE [0x60, 0x2A], by decide⟩,
    ⟨withBytes { masked with pc := 0xFFF } 0xFFF [0x61], by decide⟩⟩

theorem test_witness_InvalidWordRaisesInvalidOpcode :
    State.reset.run = .ready ∧ InRange State.reset.cfg State.reset.pc.toNat 2 ∧
      ∀ r ∈ opcodeTable, r.hits State.reset.fetchWord = false :=
  ⟨by decide, fun _ _ => by decide, by decide⟩

theorem test_witness_HaltedStepChangesNothing : ({ State.reset with run := .halted } : State).run = .halted := by decide

theorem test_witness_PendingTransactionsRunInOrder :
    ({ State.reset with pending := [.tick, .reset] } : State).pending = .tick :: [.reset] := by decide

/-- With an error and without. -/
theorem test_witness_StepRaisesExactlyFirstError :
    State.reset.run = .ready ∧ State.reset.firstError = some (.invalidOpcode 0x200 0) ∧
    (holding 0x00E0).run = .ready ∧ (holding 0x00E0).firstError = none := by decide

theorem test_witness_MaskPolicyNeverOutOfRange :
    ∃ s t : State, s.cfg.addrPolicy = .mask ∧ s.pc = 0xFFFF ∧ runStep s = .next t :=
  ⟨{ masked with pc := 0xFFFF }, _, by decide, by decide, rfl⟩

/-- The last call that fits, and the full stack. -/
theorem test_witness_CallPushesReturnAddress :
    ({ State.reset with stack := List.replicate 15 0x202 } : State).depth ≠ 16 ∧ full.depth = 16 := by decide

theorem test_witness_ReturnPopsIntoPc :
    ({ State.reset with stack := [1, 2] } : State).stack = [1] ++ [2] ∧ State.reset.stack = [] := by decide

theorem test_witness_ReturnUndoesCall : ({ State.reset with stack := List.replicate 15 0x202 } : State).depth < 16 := by
  decide

theorem test_witness_SixteenNestedCallsThenOverflow :
    State.reset.stack = [] ∧ (List.replicate 16 (0x200 : Addr)).length = 16 := by decide

/-- Both settings of JUMP_USES_VX. -/
theorem test_witness_IndexedJumpAddsOffset :
    State.reset.cfg.jumpUsesVx = false ∧
    ({ State.reset with cfg := { standardConfig with jumpUsesVx := true } } : State).cfg.jumpUsesVx = true := by decide

/-- The three instructions; the toggle off with X = F, and on with X = 0 and with X = F. -/
theorem test_witness_LogicOpsBitwise :
    (Instr.andReg 0xF 1 = .andReg 0xF 1 ∧ (and : Bool → Bool → Bool) = and) ∧
    ¬(State.reset.cfg.logicResetsVf = true ∧ (0xF : Reg) = 0xF) ∧
    (∃ s : State, s.cfg.logicResetsVf = true ∧ ¬(s.cfg.logicResetsVf = true ∧ (0 : Reg) = 0xF)) :=
  ⟨⟨rfl, rfl⟩, by decide, { State.reset with cfg := { standardConfig with logicResetsVf := true } }, by decide⟩

/-- The result's clause asks for X other than F. -/
theorem test_witness_AddSetsCarry : (0 : Reg) ≠ 0xF := by decide

theorem test_witness_SubtractSetsNoBorrow : (1 : Reg) ≠ 0xF := by decide

theorem test_witness_ReverseSubtractSetsNoBorrow : (0xE : Reg) ≠ 0xF := by decide

/-- X other than F, and the shifts' source under both settings. -/
theorem test_witness_ShiftsByOne :
    (0xE : Reg) ≠ 0xF ∧ (0 : Reg) = (if State.reset.cfg.shiftUsesVy then 1 else 0) ∧
    (1 : Reg) = (if ({ State.reset with cfg := { standardConfig with shiftUsesVy := true } } : State).cfg.shiftUsesVy
      then 1 else 0) := by decide

/-- The last place three digits fit, and beyond it under `mask`. -/
theorem test_witness_BcdStoresDigits :
    (∃ s : State, s.Wf ∧ s.i = 0xFFD ∧ InRange s.cfg s.i.toNat 3) ∧
    (∃ s : State, s.Wf ∧ s.i = 0xFFFF ∧ InRange s.cfg s.i.toNat 3) :=
  ⟨⟨{ State.reset with i := 0xFFD }, ⟨by decide, by decide, by decide⟩, by decide, fun _ _ => by decide⟩,
   ⟨{ masked with i := 0xFFFF }, ⟨by decide, by decide, by decide⟩, by decide, fun h => by cases h⟩⟩

/-- The last place sixteen registers fit. -/
theorem test_witness_BulkStoreWritesRegisters :
    ∃ s : State, s.Wf ∧ s.i = 0xFF0 ∧ InRange s.cfg s.i.toNat ((0xF : Reg).toNat + 1) :=
  ⟨{ State.reset with i := 0xFF0 }, ⟨by decide, by decide, by decide⟩, by decide, fun _ _ => by decide⟩

theorem test_witness_BulkLoadReadsRegisters :
    ∃ s : State, s.i = 0xFF0 ∧ InRange s.cfg s.i.toNat ((0xF : Reg).toNat + 1) ∧ (0xF : Reg).toNat ≤ (0xF : Reg).toNat :=
  ⟨{ State.reset with i := 0xFF0 }, by decide, fun _ _ => by decide, by decide⟩

/-- Each form one byte past the end. -/
theorem test_witness_IndexAccessOutOfRange :
    State.reset.cfg.addrPolicy = .check ∧
    (∃ s : State, s.i = 0xFFE ∧ 0xFFF < s.i.toNat + 3 - 1) ∧
    (∃ s : State, s.i = 0xFF1 ∧ 0xFFF < s.i.toNat + ((0xF : Reg).toNat + 1) - 1) ∧
    (∃ s : State, s.i = 0x1000 ∧ 0xFFF < s.i.toNat + ((0 : Reg).toNat + 1) - 1) ∧
    (∃ s : State, s.i = 0xFFE ∧ 1 ≤ (3 : Nibble).toNat ∧ 0xFFF < s.i.toNat + (3 : Nibble).toNat - 1) :=
  ⟨by decide, ⟨{ State.reset with i := 0xFFE }, by decide⟩, ⟨{ State.reset with i := 0xFF1 }, by decide⟩,
    ⟨{ State.reset with i := 0x1000 }, by decide⟩, ⟨{ State.reset with i := 0xFFE }, by decide⟩⟩

theorem test_witness_NextFetchSeesStore :
    ∃ s : State, s.Wf ∧ s.cfg.addrPolicy = .check ∧ s.pc.toNat + 3 ≤ 0xFFF ∧ s.i = s.pc + 2 ∧ s.pc = 0xFFC :=
  ⟨{ State.reset with pc := 0xFFC, i := 0xFFE }, ⟨by decide, by decide, by decide⟩, by decide⟩

/-- The last place five rows fit, and no rows anywhere. -/
theorem test_witness_DrawXorsSprite :
    (∃ s : State, s.i = 0xFFB ∧ InRange s.cfg s.i.toNat (5 : Nibble).toNat) ∧
    (∃ s : State, s.i = 0xFFFF ∧ InRange s.cfg s.i.toNat (0 : Nibble).toNat) :=
  ⟨⟨{ State.reset with i := 0xFFB }, by decide, fun _ _ => by decide⟩,
   ⟨{ State.reset with i := 0xFFFF }, by decide, fun _ h => absurd h (by decide)⟩⟩

theorem test_witness_DrawTwiceRestores :
    ∃ s t : State, InRange s.cfg s.i.toNat (5 : Nibble).toNat ∧ exec (.drw 0 1 5) s = .next t ∧
      t.readV 0 = s.readV 0 ∧ t.readV 1 = s.readV 1 :=
  ⟨State.reset, _, fun _ _ => by decide, rfl, by decide, by decide⟩

/-- No new key, and a lowest new key at each end of the pad. -/
theorem test_witness_KeyWaitEndsOnNewKey :
    (∃ s : State, s.run = .awaitingKey 5 ∧ ∀ k < 16, s.keys.getLsbD k = true → s.prevKeys.getLsbD k = true) ∧
    (∃ s : State, s.run = .awaitingKey 0xF ∧ s.keys.getLsbD 15 = true ∧ s.prevKeys.getLsbD 15 = false ∧
      ∀ j < 15, s.keys.getLsbD j = true → s.prevKeys.getLsbD j = true) ∧
    (∃ s : State, s.run = .awaitingKey 0 ∧ s.keys.getLsbD 0 = true ∧ s.prevKeys.getLsbD 0 = false ∧
      ∀ j < 0, s.keys.getLsbD j = true → s.prevKeys.getLsbD j = true) :=
  ⟨⟨{ State.reset with run := .awaitingKey 5, keys := 1, prevKeys := 1 }, by decide⟩,
   ⟨{ State.reset with run := .awaitingKey 0xF, keys := 0x8001, prevKeys := 1 }, by decide⟩,
   ⟨{ State.reset with run := .awaitingKey 0, keys := 0xFFFF }, by decide⟩⟩

theorem test_witness_EveryInstructionKeepsItsFrame :
    ∃ s t : State, s.instrError (.ldStore 3) = none ∧ exec (.ldStore 3) s = .next t :=
  ⟨State.reset, _, by decide, rfl⟩

theorem test_witness_NoInstructionTouchesHostFields : ∃ t : State, exec (.call 0x300) full = .next t := ⟨_, rfl⟩

theorem test_witness_OnlyRandomReadsRnd :
    (∀ x nn, Instr.drw 0 1 5 ≠ .rnd x nn) ∧ ∃ t : State, exec (.drw 0 1 5) State.reset = .next t :=
  ⟨fun _ _ h => (by cases h), _, rfl⟩

theorem test_witness_OnlyKeySkipsReadKeys :
    (∀ x, Instr.ldVxK 0 ≠ .skp x ∧ Instr.ldVxK 0 ≠ .sknp x) ∧ ∃ t : State, exec (.ldVxK 0) State.reset = .next t :=
  ⟨fun _ => ⟨fun h => (by cases h), fun h => (by cases h)⟩, _, rfl⟩

/-- By reset, and by initialize. -/
theorem test_witness_OnlyReloadLeavesHalted :
    (∃ s t : State, s.run = .halted ∧ s.pending = [.reset] ∧ step s = .next t ∧ t.run ≠ .halted) ∧
    (∃ s t : State, s.run = .halted ∧ s.pending = [.load []] ∧ step s = .next t ∧ t.run ≠ .halted) :=
  ⟨⟨{ State.reset with run := .halted, pending := [.reset] }, _, by decide, by decide, rfl, by decide⟩,
   ⟨{ State.reset with run := .halted, pending := [.load []] }, _, by decide, by decide, rfl, by decide⟩⟩

/-- From each run state. -/
theorem test_witness_RunStateTransitions :
    (∃ s t : State, s.run = .ready ∧ runStep s = .next t ∧ t.run = .awaitingKey 3) ∧
    (∃ s t : State, s.run = .awaitingKey 3 ∧ runStep s = .next t ∧ t.run = .ready) ∧
    (∃ s t : State, s.run = .halted ∧ runStep s = .next t) :=
  ⟨⟨holding 0xF30A, _, by decide, rfl, by decide⟩,
   ⟨{ State.reset with run := .awaitingKey 3, keys := 1 }, _, by decide, rfl, by decide⟩,
   ⟨{ State.reset with run := .halted }, _, by decide, rfl⟩⟩

/-- By initialize with the largest image, and by reset. -/
theorem test_witness_ResetValues :
    (List.replicate 3584 (0 : Byte)).length ≤ 3584 ∧
    (∃ t : State, runTransaction (.load [1]) full = .next t) ∧ ∃ t : State, runTransaction .reset full = .next t :=
  ⟨by simp only [List.length_replicate]; decide, ⟨_, rfl⟩, ⟨_, rfl⟩⟩

/-- The largest image that fits, and the smallest that does not. -/
theorem test_witness_InitializeLoadsOrRefusesImage :
    (List.replicate 3584 (0 : Byte)).length ≤ 3584 ∧ 3584 < (List.replicate 3585 (0 : Byte)).length := by
  simp only [List.length_replicate]; decide

theorem test_witness_ResetIsInitializeWithKeptImage :
    ({ State.reset with image := List.replicate 3584 1 } : State).image.length ≤ 3584 := by
  simp only [List.length_replicate]; decide

theorem test_witness_EmptyImageFirstStepInvalid : ∃ t : State, runTransaction (.load []) full = .next t := ⟨_, rfl⟩

theorem test_witness_GlyphAddressPointsAtFont :
    ∃ t u : State, ([0x12] : List Byte).length ≤ 3584 ∧ runTransaction (.load [0x12]) full = .next t ∧
      exec (.ldF 0xF) (t.writeV 0xF 0xFF) = .next u :=
  ⟨_, _, by decide, rfl, rfl⟩

theorem test_witness_EveryStepKeepsWf :
    ∃ s t : State, s.Wf ∧ s.mem ≠ [] ∧ s.depth = 16 ∧ step s = .next t :=
  ⟨{ withBytes full 0x300 [1, 2] with pending := [.step 0 0] }, _, ⟨by decide, by decide, by decide⟩, by decide, by decide,
    rfl⟩

/-- The state waiting at the FX0A, with no key down and a step to come. -/
def waiting : State := { holding 0xF30A with run := .awaitingKey 3, pending := [.step 0 0] }

theorem test_waiting_meets_invariant : waiting.WaitsAtKeyInstr := by
  intro x h
  have : x = 3 := by injection (h : RunState.awaitingKey 3 = .awaitingKey x) with h; exact h.symm
  subst this; decide

theorem test_witness_EveryStepKeepsKeyWaitPc :
    ∃ s t : State, s.WaitsAtKeyInstr ∧ s.run = .awaitingKey 3 ∧ step s = .next t ∧ t.run = .awaitingKey 3 :=
  ⟨waiting, _, test_waiting_meets_invariant, by decide, rfl, by decide⟩

theorem test_witness_EveryStepKeepsHaltPrecise :
    ∃ s t : State, s.HaltedAtError ∧ s.run = .halted ∧ step s = .next t ∧ t.run = .halted :=
  ⟨{ State.reset with run := .halted, pending := [.tick] }, _, fun _ => by decide, by decide, rfl, by decide⟩

theorem test_witness_EveryStepKeepsPcBounded :
    ∃ s t : State, s.WaitsAtKeyInstr ∧ s.PcBounded ∧ s.pc = 0x10FE ∧ step s = .next t :=
  ⟨{ State.reset with pc := 0x10FE, pending := [.tick] }, _, fun _ h => (by cases h),
    fun _ => ⟨by decide, fun a h => (by cases h)⟩, by decide, rfl⟩

end Sys2Proof.Tests
end

section
/-! Control flow (41_control_flow.md): the frame of a step that completes after moving pc, and the statements about JP
and SE Vx, byte. -/

namespace Sys2Proof.Machine

/-! ### Frames along the updates of a step -/

theorem State.Frame.refl (s : State) (f : Footprint) : s.Frame s f where
  regs _ _ := rfl
  mem _ _ := rfl
  index _ := rfl
  stack _ := rfl
  dt _ := rfl
  st _ := rfl
  fb _ := rfl
  run _ := rfl
  image := rfl

/-- pc is in no footprint: a frame leaves it free. -/
theorem State.Frame.setPc {s t : State} {f : Footprint} (h : s.Frame t f) (w : Word) : s.Frame (t.setPc w) f :=
  { h with }

/-- The key history and the answer are in no footprint (40_pipeline.md R107, R100). -/
theorem State.Frame.commit {s t : State} {f : Footprint} (h : s.Frame t f) (r : Result) : s.Frame (t.commit r) f :=
  { h with }

/-- A completed step that only moved pc, the shape of every jump and skip. -/
theorem complete_setPc (s : State) (w : Word) :
    ∃ t, complete (s.setPc w) = .next t ∧ t.pc = w ∧ s.Frame t {} :=
  ⟨(s.setPc w).commit .ok, rfl, by simp, ((State.Frame.refl s {}).setPc w).commit .ok⟩

/-! ### Where a jump and a skip go -/

@[simp] theorem toNat_addrOf (nnn : Addr) : (addrOf nnn).toNat = nnn.toNat :=
  BitVec.toNat_setWidth_of_le (by decide)

/-- The advance of 2 and a taken skip's 2 more are one move of pc (41_control_flow.md R123). -/
theorem State.advance_skipIf (s : State) (taken : Bool) :
    s.advance.skipIf taken = s.setPc (if taken then s.pc + 4 else s.pc + 2) := by
  cases taken with
  | false => rfl
  | true =>
    have two_twice : s.pc + 2 + 2 = s.pc + 4 := BitVec.add_assoc s.pc 2 2
    exact congrArg s.setPc two_twice

theorem exec_jp (nnn : Addr) (s : State) : exec (.jp nnn) s = complete (s.setPc (addrOf nnn)) := rfl

theorem exec_seImm (x : Reg) (nn : Byte) (s : State) :
    exec (.seImm x nn) s = complete (s.setPc (if s.readV x = nn then s.pc + 4 else s.pc + 2)) := by
  have meaning : exec (.seImm x nn) s = complete (s.advance.skipIf (s.readV x == nn)) := rfl
  simp [meaning, State.advance_skipIf]

/-- Settles O14: JP completes after moving pc to zext_16(NNN), which keeps the value of NNN. -/
theorem jumpSetsPc : Obligations.JumpSetsPc := by
  intro nnn s
  obtain ⟨t, completes, pc_eq, frame⟩ := complete_setPc s (addrOf nnn)
  exact ⟨t, (exec_jp nnn s).trans completes, by rw [pc_eq, toNat_addrOf], frame⟩

/-- Settles O19: SE Vx, byte completes after one move of pc, by 4 or by 2. -/
theorem skipIfEqualByte : Obligations.SkipIfEqualByte := by
  intro x nn s
  rw [exec_seImm]
  exact complete_setPc s _

end Sys2Proof.Machine
end

section
/-! Register operations (42_register_ops.md): the frame of a step that completes after writing one register, and the
statements about LD Vx, byte, LD Vx, Vy and ADD Vx, byte. -/

namespace Sys2Proof.Machine

/-! ### A step that writes one register -/

/-- A register of the footprint may be written, VF being one like any other. -/
theorem State.Frame.writeV {s t : State} {f : Footprint} (h : s.Frame t f) {x : Reg} (hx : x ∈ f.regs) (b : Byte) :
    s.Frame (t.writeV x b) f :=
  { h with
    regs := fun y hy =>
      (State.readV_writeV_of_ne t (ne_of_mem_of_not_mem hx hy).symm b).trans (h.regs y hy) }

/-- A completed step that moved on to the next word and wrote one register, the shape of every load into V[X] and of
every operation on it that sets no flag. -/
theorem complete_advance_writeV (s : State) (x : Reg) (b : Byte) :
    ∃ t, complete (s.advance.writeV x b) = .next t ∧ t.readV x = b ∧ t.pc = s.pc + 2 ∧ s.Frame t { regs := [x] } :=
  ⟨(s.advance.writeV x b).commit .ok, rfl, by simp, by simp,
    (((State.Frame.refl s { regs := [x] }).setPc (s.pc + 2)).writeV List.mem_cons_self b).commit .ok⟩

/-! ### What the loads and ADD Vx, byte write -/

theorem exec_ldImm (x : Reg) (nn : Byte) (s : State) :
    exec (.ldImm x nn) s = complete (s.advance.writeV x nn) := rfl

theorem exec_ldReg (x y : Reg) (s : State) :
    exec (.ldReg x y) s = complete (s.advance.writeV x (s.readV y)) := rfl

theorem exec_addImm (x : Reg) (nn : Byte) (s : State) :
    exec (.addImm x nn) s = complete (s.advance.writeV x (s.readV x + nn)) := rfl

/-- Settles O22: both loads complete after writing V[X], one with NN and one with V[Y]. -/
theorem loadsWriteVx : Obligations.LoadsWriteVx := by
  intro x y nn s
  rw [exec_ldImm, exec_ldReg]
  exact ⟨complete_advance_writeV s x nn, complete_advance_writeV s x (s.readV y)⟩

/-- Settles O23: ADD Vx, byte completes after writing V[X] alone, with the byte sum, which wraps mod 256. -/
theorem addByteSetsNoFlag : Obligations.AddByteSetsNoFlag := by
  intro x nn s
  obtain ⟨t, completes, sum_eq, pc_eq, frame⟩ := complete_advance_writeV s x (s.readV x + nn)
  exact ⟨t, (exec_addImm x nn s).trans completes, by rw [sum_eq, BitVec.toNat_add], pc_eq, frame⟩

end Sys2Proof.Machine
end

section
/-! Index register and memory (43_index_memory.md): the frame of a step that completes after setting I, and the statement
about LD I, addr. -/

namespace Sys2Proof.Machine

/-! ### A step that sets I -/

/-- I may be set where the footprint marks it. -/
theorem State.Frame.setI {s t : State} {f : Footprint} (h : s.Frame t f) (marked : f.index = true) (w : Word) :
    s.Frame (t.setI w) f :=
  { h with index := fun unmarked => absurd marked (by simp [unmarked]) }

/-- A completed step that moved on to the next word and set I, the shape of every instruction that only computes an
address. -/
theorem complete_advance_setI (s : State) (w : Word) :
    ∃ t, complete (s.advance.setI w) = .next t ∧ t.i = w ∧ t.pc = s.pc + 2 ∧ s.Frame t { index := true } :=
  ⟨(s.advance.setI w).commit .ok, rfl, by simp, by simp,
    (((State.Frame.refl s { index := true }).setPc (s.pc + 2)).setI rfl w).commit .ok⟩

/-! ### What LD I, addr sets -/

theorem exec_ldI (nnn : Addr) (s : State) : exec (.ldI nnn) s = complete (s.advance.setI (addrOf nnn)) := rfl

/-- Settles O29: LD I, addr completes after setting I to zext_16(NNN), which keeps the value of NNN. -/
theorem loadIndexAddress : Obligations.LoadIndexAddress := by
  intro nnn s
  obtain ⟨t, completes, i_eq, pc_eq, frame⟩ := complete_advance_setI s (addrOf nnn)
  exact ⟨t, (exec_ldI nnn s).trans completes, by rw [i_eq, toNat_addrOf], pc_eq, frame⟩

end Sys2Proof.Machine
end

section
/-! Display (44_display.md): the frame of a step that completes after replacing the framebuffer, and the statement about
CLS. -/

namespace Sys2Proof.Machine

/-! ### A step that replaces the framebuffer -/

/-- The framebuffer may be replaced where the footprint marks it. -/
theorem State.Frame.setFb {s t : State} {f : Footprint} (h : s.Frame t f) (marked : f.fb = true) (g : Framebuffer) :
    s.Frame (t.setFb g) f :=
  { h with fb := fun unmarked => absurd marked (by simp [unmarked]) }

/-- A completed step that moved on to the next word and replaced the framebuffer, and no register with it. -/
theorem complete_advance_setFb (s : State) (g : Framebuffer) :
    ∃ t, complete (s.advance.setFb g) = .next t ∧ t.fb = g ∧ t.pc = s.pc + 2 ∧ s.Frame t { fb := true } :=
  ⟨(s.advance.setFb g).commit .ok, rfl, by simp, by simp,
    (((State.Frame.refl s { fb := true }).setPc (s.pc + 2)).setFb rfl g).commit .ok⟩

/-! ### What CLS leaves on the screen -/

theorem exec_cls (s : State) : exec .cls s = complete (s.advance.setFb Framebuffer.clear) := rfl

/-- Settles O36: CLS completes after replacing the framebuffer by the clear one, which has no pixel set. -/
theorem clearScreen : Obligations.ClearScreen := by
  intro s
  obtain ⟨t, completes, fb_eq, pc_eq, frame⟩ := complete_advance_setFb s Framebuffer.clear
  have all_clear : ∀ c < 64, ∀ r < 32, t.pixel c r = false := fun c _ r _ => by
    rw [State.pixel, fb_eq, Framebuffer.pixel_clear]
  exact ⟨t, (exec_cls s).trans completes, all_clear, pc_eq, frame⟩

end Sys2Proof.Machine
end

section
/-! Timers (46_timers.md): the frames of the steps that complete after writing DT or ST, and the statement about the
three timer loads. -/

namespace Sys2Proof.Machine

/-! ### A step that writes a timer -/

/-- DT may be written where the footprint marks it. -/
theorem State.Frame.setDt {s t : State} {f : Footprint} (h : s.Frame t f) (marked : f.dt = true) (b : Byte) :
    s.Frame (t.setDt b) f :=
  { h with dt := fun unmarked => absurd marked (by simp [unmarked]) }

/-- ST may be written where the footprint marks it. -/
theorem State.Frame.setSt {s t : State} {f : Footprint} (h : s.Frame t f) (marked : f.st = true) (b : Byte) :
    s.Frame (t.setSt b) f :=
  { h with st := fun unmarked => absurd marked (by simp [unmarked]) }

/-- A completed step that moved on to the next word and wrote DT, and no register with it. -/
theorem complete_advance_setDt (s : State) (b : Byte) :
    ∃ t, complete (s.advance.setDt b) = .next t ∧ t.dt = b ∧ t.pc = s.pc + 2 ∧ s.Frame t { dt := true } :=
  ⟨(s.advance.setDt b).commit .ok, rfl, by simp, by simp,
    (((State.Frame.refl s { dt := true }).setPc (s.pc + 2)).setDt rfl b).commit .ok⟩

/-- A completed step that moved on to the next word and wrote ST, and no register with it. -/
theorem complete_advance_setSt (s : State) (b : Byte) :
    ∃ t, complete (s.advance.setSt b) = .next t ∧ t.st = b ∧ t.pc = s.pc + 2 ∧ s.Frame t { st := true } :=
  ⟨(s.advance.setSt b).commit .ok, rfl, by simp, by simp,
    (((State.Frame.refl s { st := true }).setPc (s.pc + 2)).setSt rfl b).commit .ok⟩

/-! ### What the timer loads write -/

/-- The sound is on exactly while ST is nonzero (10_state.md R37). -/
theorem State.soundActive_iff (s : State) : s.soundActive = true ↔ s.st ≠ 0 := bne_iff_ne

theorem exec_ldVxDt (x : Reg) (s : State) :
    exec (.ldVxDt x) s = complete (s.advance.writeV x s.dt) := rfl

theorem exec_ldDtVx (x : Reg) (s : State) :
    exec (.ldDtVx x) s = complete (s.advance.setDt (s.readV x)) := rfl

theorem exec_ldStVx (x : Reg) (s : State) :
    exec (.ldStVx x) s = complete (s.advance.setSt (s.readV x)) := rfl

/-- Settles O42: each of the three loads completes after one write, DT to V[X], V[X] to DT or V[X] to ST; the sound
then follows the byte written to ST. -/
theorem timerLoads : Obligations.TimerLoads := by
  intro x s
  rw [exec_ldVxDt, exec_ldDtVx, exec_ldStVx]
  obtain ⟨t, completes, st_eq, pc_eq, frame⟩ := complete_advance_setSt s (s.readV x)
  have sound : t.soundActive = true ↔ s.readV x ≠ 0 := by rw [State.soundActive_iff, st_eq]
  exact ⟨complete_advance_writeV s x s.dt, complete_advance_setDt s (s.readV x),
    t, completes, st_eq, sound, pc_eq, frame⟩

end Sys2Proof.Machine
end

section
/-! The host's tick (60_exceptions.md R235): what it does to one timer, and the statement about the transaction. -/

namespace Sys2Proof.Machine

/-- One tick takes one off a timer; the truncated subtraction of `Nat` is the floor at zero. -/
theorem countDown_toNat (b : Byte) : (countDown b).toNat = b.toNat - 1 := by
  unfold countDown
  split
  case isTrue stopped => simp [stopped]
  case isFalse running =>
    have one_le : 1#8 ≤ b := by bv_omega
    exact BitVec.toNat_sub_of_le one_le

theorem runTransaction_tick (s : State) :
    runTransaction .tick s = .next { s with dt := countDown s.dt, st := countDown s.st, result := .nothing } := rfl

/-- Settles O44: tick counts both timers down, in every run state, and writes nothing else but its answer. -/
theorem tickDecrementsTimers : Obligations.TickDecrementsTimers := fun s =>
  ⟨countDown s.dt, countDown s.st, runTransaction_tick s, countDown_toNat s.dt, countDown_toNat s.st⟩

end Sys2Proof.Machine
end

section
/-! Encoding (30_encoding.md): the decoder against the encoder in both directions, and against the opcode table. -/

namespace Sys2Proof

/-! ### A word put together again from its fields (30_encoding.md R71) -/

theorem wordNNN_of_fields {w : Word} {f : BitVec 4} (family_eq : family w = f) : wordNNN f (fieldNNN w) = w := by
  subst family_eq
  apply BitVec.eq_of_getLsbD_eq; intro k hk
  rw [getLsbD_wordNNN, family, fieldNNN, BitVec.getLsbD_extractLsb', BitVec.getLsbD_extractLsb']
  interval_cases k <;> simp

theorem wordXNN_of_fields {w : Word} {f : BitVec 4} {nn : Byte} (family_eq : family w = f) (nn_eq : fieldNN w = nn) :
    wordXNN f (fieldX w) nn = w := by
  subst family_eq nn_eq
  apply BitVec.eq_of_getLsbD_eq; intro k hk
  rw [getLsbD_wordXNN, family, fieldX, fieldNN, BitVec.getLsbD_extractLsb', BitVec.getLsbD_extractLsb',
    BitVec.getLsbD_extractLsb']
  interval_cases k <;> simp

theorem wordXYN_of_fields {w : Word} {f : BitVec 4} {n : Nibble} (family_eq : family w = f) (n_eq : fieldN w = n) :
    wordXYN f (fieldX w) (fieldY w) n = w := by
  subst family_eq n_eq
  apply BitVec.eq_of_getLsbD_eq; intro k hk
  rw [getLsbD_wordXYN, family, fieldX, fieldY, fieldN, BitVec.getLsbD_extractLsb', BitVec.getLsbD_extractLsb',
    BitVec.getLsbD_extractLsb', BitVec.getLsbD_extractLsb']
  interval_cases k <;> simp

/-! ### Decoding and encoding undo each other (30_encoding.md R73, R74) -/

/-- Settles O1: of CLS and RET there is one word each; of every other form the decoder gets back the family, the
selector and the operands that the word was put together from. -/
theorem decodeOfEncode : Obligations.DecodeOfEncode := by
  intro i
  cases i
  case cls | ret => decide
  case jp | call | ldI | jpV0 => simp [encode, decode]
  case seImm | sneImm | ldImm | addImm | rnd => simp [encode, decode]
  case seReg | sneReg | drw => simp [encode, decode]
  case ldReg | orReg | andReg | xorReg | addReg | sub | shr | subn | shl => simp [encode, decode, decode8]
  case skp | sknp => simp [encode, decode, decodeE]
  case ldVxDt | ldVxK | ldDtVx | ldStVx | addI | ldF | ldB | ldStore | ldLoad => simp [encode, decode, decodeF]

theorem encode_of_decode0 {w : Word} {i : Instr} (decodes : decode0 w = .instr i) : encode i = w := by
  unfold decode0 at decodes
  split at decodes
  case isTrue word_eq => cases decodes; exact word_eq.symm
  case isFalse =>
    split at decodes
    case isTrue word_eq => cases decodes; exact word_eq.symm
    case isFalse => cases decodes

theorem encode_of_decode8 {w : Word} {i : Instr} (family_eq : family w = 0x8) (decodes : decode8 w = .instr i) :
    encode i = w := by
  unfold decode8 at decodes
  split at decodes <;> cases decodes
  all_goals exact wordXYN_of_fields family_eq (BitVec.eq_of_toNat_eq ‹_›)

theorem encode_of_decodeE {w : Word} {i : Instr} (family_eq : family w = 0xE) (decodes : decodeE w = .instr i) :
    encode i = w := by
  unfold decodeE at decodes
  split at decodes <;> cases decodes
  all_goals exact wordXNN_of_fields family_eq (BitVec.eq_of_toNat_eq ‹_›)

theorem encode_of_decodeF {w : Word} {i : Instr} (family_eq : family w = 0xF) (decodes : decodeF w = .instr i) :
    encode i = w := by
  unfold decodeF at decodes
  split at decodes <;> cases decodes
  all_goals exact wordXNN_of_fields family_eq (BitVec.eq_of_toNat_eq ‹_›)

/-- Settles O2: a branch of the decoder fixes the family and the selector, and the operands it reads off are the rest
of the word. -/
theorem encodeOfDecode : Obligations.EncodeOfDecode := by
  intro w i decodes
  unfold decode at decodes
  split at decodes
  case h_1 => exact encode_of_decode0 decodes
  case h_9 family_eq => exact encode_of_decode8 (BitVec.eq_of_toNat_eq family_eq) decodes
  case h_15 family_eq => exact encode_of_decodeE (BitVec.eq_of_toNat_eq family_eq) decodes
  case h_16 =>
    have family_lt := (family w).isLt
    have family_eq : family w = 0xF := BitVec.eq_of_toNat_eq (by simp only [imp_false] at *; simp; omega)
    exact encode_of_decodeF family_eq decodes
  case h_6 | h_10 =>
    split at decodes <;> cases decodes
    exact wordXYN_of_fields (BitVec.eq_of_toNat_eq ‹_›) ‹_›
  case h_14 family_eq => cases decodes; exact wordXYN_of_fields (BitVec.eq_of_toNat_eq family_eq) rfl
  case h_2 | h_3 | h_11 | h_12 => cases decodes; exact wordNNN_of_fields (BitVec.eq_of_toNat_eq ‹_›)
  case h_4 | h_5 | h_7 | h_8 | h_13 => cases decodes; exact wordXNN_of_fields (BitVec.eq_of_toNat_eq ‹_›) rfl

/-! ### The opcode table (30_encoding.md R73, R75) -/

theorem OpRow.hits_iff (r : OpRow) (w : Word) : r.hits w = true ↔ w &&& r.mask = r.value := beq_iff_eq

/-- The row of each instruction, by its own lemma in Laws/PerInstr.lean. -/
theorem encode_hits_own_row (i : Instr) : Laws.OwnRow.Statement i := by
  cases i
  case cls => exact Laws.OwnRow.cls
  case ret => exact Laws.OwnRow.ret
  case jp => exact Laws.OwnRow.jp _
  case call => exact Laws.OwnRow.call _
  case seImm => exact Laws.OwnRow.seImm _ _
  case sneImm => exact Laws.OwnRow.sneImm _ _
  case seReg => exact Laws.OwnRow.seReg _ _
  case ldImm => exact Laws.OwnRow.ldImm _ _
  case addImm => exact Laws.OwnRow.addImm _ _
  case ldReg => exact Laws.OwnRow.ldReg _ _
  case orReg => exact Laws.OwnRow.orReg _ _
  case andReg => exact Laws.OwnRow.andReg _ _
  case xorReg => exact Laws.OwnRow.xorReg _ _
  case addReg => exact Laws.OwnRow.addReg _ _
  case sub => exact Laws.OwnRow.sub _ _
  case shr => exact Laws.OwnRow.shr _ _
  case subn => exact Laws.OwnRow.subn _ _
  case shl => exact Laws.OwnRow.shl _ _
  case sneReg => exact Laws.OwnRow.sneReg _ _
  case ldI => exact Laws.OwnRow.ldI _
  case jpV0 => exact Laws.OwnRow.jpV0 _
  case rnd => exact Laws.OwnRow.rnd _ _
  case drw => exact Laws.OwnRow.drw _ _ _
  case skp => exact Laws.OwnRow.skp _
  case sknp => exact Laws.OwnRow.sknp _
  case ldVxDt => exact Laws.OwnRow.ldVxDt _
  case ldVxK => exact Laws.OwnRow.ldVxK _
  case ldDtVx => exact Laws.OwnRow.ldDtVx _
  case ldStVx => exact Laws.OwnRow.ldStVx _
  case addI => exact Laws.OwnRow.addI _
  case ldF => exact Laws.OwnRow.ldF _
  case ldB => exact Laws.OwnRow.ldB _
  case ldStore => exact Laws.OwnRow.ldStore _
  case ldLoad => exact Laws.OwnRow.ldLoad _

/-- Two rows that one word matches agree where both masks look. -/
theorem OpRow.values_agree {r q : OpRow} {w : Word} (hr : r.hits w = true) (hq : q.hits w = true) :
    r.value &&& q.mask = q.value &&& r.mask := by
  rw [OpRow.hits_iff] at hr hq
  rw [← hr, ← hq, BitVec.and_assoc, BitVec.and_assoc, BitVec.and_comm r.mask]

/-- Rows of the table that agree where both masks look are the same row. -/
theorem opcodeTable_eq_of_values_agree :
    ∀ r ∈ opcodeTable, ∀ q ∈ opcodeTable, r.value &&& q.mask = q.value &&& r.mask → r = q := by decide

/-- Settles O4. -/
theorem opcodeRowsDisjoint : Obligations.OpcodeRowsDisjoint := fun _ r hr q hq r_hits q_hits =>
  opcodeTable_eq_of_values_agree r hr q hq (OpRow.values_agree r_hits q_hits)

/-- A word that matches a row has the row's bits wherever the mask covers them. -/
theorem OpRow.bits_of_hits {r : OpRow} {w : Word} {start len : Nat} (hits : r.hits w = true)
    (covered : r.mask.extractLsb' start len = BitVec.allOnes len) :
    w.extractLsb' start len = r.value.extractLsb' start len := by
  rw [← (r.hits_iff w).1 hits, BitVec.extractLsb'_and, covered, BitVec.and_allOnes]

/-- What tells the rows of a family apart lies under their masks (30_encoding.md R73): the whole word in family 0, N in
families 5, 8 and 9, NN in families E and F. And the value of every row decodes. -/
theorem opcodeTable_masks_selectors :
    ∀ r ∈ opcodeTable, family r.mask = 0xF ∧ (family r.value = 0 → r.mask = 0xFFFF) ∧
      (family r.value ∈ [0x5, 0x8, 0x9] → fieldN r.mask = 0xF) ∧
      (family r.value ∈ [0xE, 0xF] → fieldNN r.mask = 0xFF) ∧ (decode r.value).toInstr?.isSome = true := by decide

/-- Whether a word is legal depends on its family and on what selects within that family. -/
theorem decode_isSome_congr {v w : Word} (family_eq : family w = family v) (word_eq : family v = 0 → w = v)
    (n_eq : family v ∈ [0x5, 0x8, 0x9] → fieldN w = fieldN v)
    (nn_eq : family v ∈ [0xE, 0xF] → fieldNN w = fieldNN v) :
    (decode w).toInstr?.isSome = (decode v).toInstr?.isSome := by
  unfold decode
  rw [family_eq]
  split
  case h_1 h => rw [word_eq (BitVec.eq_of_toNat_eq h)]
  case h_6 h | h_10 h =>
    rw [n_eq (by simp [BitVec.toNat_eq, h])]
    split <;> rfl
  case h_9 h =>
    unfold decode8
    rw [n_eq (by simp [BitVec.toNat_eq, h])]
    split <;> rfl
  case h_15 h =>
    unfold decodeE
    rw [nn_eq (by simp [BitVec.toNat_eq, h])]
    split <;> rfl
  case h_16 =>
    have family_lt := (family v).isLt
    unfold decodeF
    rw [nn_eq (by simp only [imp_false] at *; simp [BitVec.toNat_eq]; omega)]
    split <;> rfl
  all_goals rfl

theorem decode_isSome_of_hits {r : OpRow} {w : Word} (hr : r ∈ opcodeTable) (hits : r.hits w = true) :
    (decode w).toInstr?.isSome = true := by
  obtain ⟨family_covered, word_covered, n_covered, nn_covered, value_decodes⟩ := opcodeTable_masks_selectors r hr
  have word_eq (h : family r.value = 0) : w = r.value := by
    rw [← (r.hits_iff w).1 hits, word_covered h]
    exact BitVec.and_allOnes.symm
  rw [decode_isSome_congr (OpRow.bits_of_hits hits family_covered) word_eq
    (fun h => OpRow.bits_of_hits hits (n_covered h)) (fun h => OpRow.bits_of_hits hits (nn_covered h)),
    value_decodes]

theorem exists_hits_of_decode {w : Word} {i : Instr} (decodes : decode w = .instr i) :
    ∃ r ∈ opcodeTable, r.hits w = true ∧ r.mnemonic = i.mnemonic := by
  have own_row := encode_hits_own_row i
  rwa [Laws.OwnRow.Statement, encodeOfDecode w i decodes] at own_row

/-- Settles O3: a word that decodes is the encoding of its instruction, which lies in its own row; and a word in a row
has the row's selector, on which alone the decoder's rejection depends. -/
theorem decodeFollowsOpcodeTable : Obligations.DecodeFollowsOpcodeTable := by
  intro w
  refine ⟨fun i => exists_hits_of_decode, ?_, ?_⟩
  · rintro ⟨why, rejects⟩ r hr
    by_contra hits
    have legal := decode_isSome_of_hits hr (Bool.eq_true_of_not_eq_false hits)
    rw [rejects] at legal
    cases legal
  · intro no_row
    cases decodes : decode w with
    | invalid why => exact ⟨why, rfl⟩
    | instr i =>
      obtain ⟨r, hr, hits, -⟩ := exists_hits_of_decode decodes
      cases hits.symm.trans (no_row r hr)

/-- Settles O5. -/
theorem sampleWordsDecode : Obligations.SampleWordsDecode := by
  unfold Obligations.SampleWordsDecode
  decide

end Sys2Proof
end

section
/-! What an instruction does when it meets no error, said once over all of them, and the frame that follows. -/

namespace Sys2Proof.Machine

/-- What instruction `i` leaves of `s` when it meets no error, before the key history and the answer. -/
def State.effect (s : State) : Instr → State
  | .cls => s.advance.setFb Framebuffer.clear
  | .ret => s.dropTop.setPc (s.stack.getLastD 0)
  | .jp nnn => s.setPc (addrOf nnn)
  | .call nnn => (s.push (s.pc + 2)).setPc (addrOf nnn)
  | .seImm x nn => s.advance.skipIf (s.readV x == nn)
  | .sneImm x nn => s.advance.skipIf (s.readV x != nn)
  | .seReg x y => s.advance.skipIf (s.readV x == s.readV y)
  | .sneReg x y => s.advance.skipIf (s.readV x != s.readV y)
  | .ldImm x nn => s.advance.writeV x nn
  | .addImm x nn => s.advance.writeV x (s.readV x + nn)
  | .ldReg x y => s.advance.writeV x (s.readV y)
  | .orReg x y => s.advance.writeLogic x (s.readV x ||| s.readV y)
  | .andReg x y => s.advance.writeLogic x (s.readV x &&& s.readV y)
  | .xorReg x y => s.advance.writeLogic x (s.readV x ^^^ s.readV y)
  | .addReg x y => s.advance.writeWithFlag x (s.readV x + s.readV y) (carryFlag (s.readV x) (s.readV y))
  | .sub x y => s.advance.writeWithFlag x (s.readV x - s.readV y) (noBorrowFlag (s.readV x) (s.readV y))
  | .subn x y => s.advance.writeWithFlag x (s.readV y - s.readV x) (noBorrowFlag (s.readV y) (s.readV x))
  | .shr x y => s.advance.writeWithFlag x (s.shiftSource x y >>> 1) (shiftedOutRight (s.shiftSource x y))
  | .shl x y => s.advance.writeWithFlag x (s.shiftSource x y <<< 1) (shiftedOutLeft (s.shiftSource x y))
  | .ldI nnn => s.advance.setI (addrOf nnn)
  | .addI x => s.advance.setI (s.i + wordOf (s.readV x))
  | .ldF x => s.advance.setI (glyphAddr (s.readV x))
  | .jpV0 nnn => s.setPc (addrOf nnn + wordOf (s.jumpOffset nnn))
  | .rnd x nn => s.advance.writeV x (s.rnd &&& nn)
  | .drw x y n => (s.advance.setFb (s.drawing x y n).1).writeV regF (flagByte (s.drawing x y n).2)
  | .skp x => s.advance.skipIf (s.keyDown x)
  | .sknp x => s.advance.skipIf (!s.keyDown x)
  | .ldVxDt x => s.advance.writeV x s.dt
  | .ldVxK x => s.setRun (.awaitingKey x)
  | .ldDtVx x => s.advance.setDt (s.readV x)
  | .ldStVx x => s.advance.setSt (s.readV x)
  | .ldB x => ((s.advance.writeByte s.i.toNat 0 (hundreds (s.readV x))).writeByte s.i.toNat 1
      (tens (s.readV x))).writeByte s.i.toNat 2 (ones (s.readV x))
  | .ldStore x => (s.advance.storeRegs s.i.toNat (x.toNat + 1)).bumpI (x.toNat + 1)
  | .ldLoad x => (s.advance.loadRegs s.i.toNat (x.toNat + 1)).bumpI (x.toNat + 1)

/-- What an instruction that meets no error answers: only FX0A waits (40_pipeline.md R100). -/
def answerOf : Instr → Result
  | .ldVxK _ => .waiting
  | _ => .ok

/-! ### exec in terms of its error and its effect -/

theorem exec_of_error {s : State} {i : Instr} {e : FatalError} (meets : s.instrError i = some e) :
    exec i s = raise s e := by
  rcases exec_cases i s with ⟨e', meets', raises⟩ | ⟨none_met, -⟩
  · cases meets.symm.trans meets'; exact raises
  · cases meets.symm.trans none_met

theorem exec_of_no_error {s : State} {i : Instr} (none_met : s.instrError i = none) :
    exec i s = .next ((s.effect i).commit (answerOf i)) := by
  cases i
  case ret =>
    rcases List.eq_nil_or_concat s.stack with empty | ⟨below, a, top⟩
    · simp [State.instrError, State.depth, empty] at none_met
    · simp [exec, execRet, complete, State.effect, answerOf, top]
  case call =>
    have fits : s.depth ≠ 16 := by simpa [State.instrError] using none_met
    exact if_neg fits
  case drw | ldB | ldStore | ldLoad => exact checked_of_none (Option.map_eq_none_iff.1 none_met) _
  all_goals rfl

/-- An instruction raises its one error and writes nothing, or has its effect, records the keys and answers. -/
theorem exec_next_cases {i : Instr} {s t : State} (h : exec i s = .next t) :
    (∃ e, s.instrError i = some e ∧ t = s.halt e) ∨
    (s.instrError i = none ∧ t = (s.effect i).commit (answerOf i)) := by
  cases met : s.instrError i with
  | some e => exact .inl ⟨e, rfl, raise_next.1 ((exec_of_error met).symm.trans h)⟩
  | none => right; cases (exec_of_no_error met).symm.trans h; exact ⟨rfl, rfl⟩

/-! ### Frames along the other updates of a step -/

section
variable {s t : State} {f : Footprint}

theorem State.Frame.setRun (h : s.Frame t f) (marked : f.run = true) (r : RunState) : s.Frame (t.setRun r) f :=
  { h with run := fun unmarked => absurd marked (by simp [unmarked]) }

theorem State.Frame.push (h : s.Frame t f) (marked : f.stack = true) (w : Word) : s.Frame (t.push w) f :=
  { h with stack := fun unmarked => absurd marked (by simp [unmarked]) }

theorem State.Frame.dropTop (h : s.Frame t f) (marked : f.stack = true) : s.Frame t.dropTop f :=
  { h with stack := fun unmarked => absurd marked (by simp [unmarked]) }

/-- The addresses of the footprint may be stored to. -/
theorem State.Frame.writeAddr (h : s.Frame t f) {a : Nat} (ha : a ∈ f.stores) (b : Byte) :
    s.Frame (t.writeAddr a b) f :=
  { h with
    mem := fun q hq =>
      (Memory.read_write_ne _ t.mem a b q (ne_of_mem_of_not_mem ha hq).symm).trans (h.mem q hq) }

theorem State.Frame.storeRegs (h : s.Frame t f) {a n : Nat} (stored : ∀ k < n, byteAddr t.cfg a k ∈ f.stores) :
    s.Frame (t.storeRegs a n) f := by
  induction n with
  | zero => exact h
  | succ n ih =>
    have last_stored : byteAddr (t.storeRegs a n).cfg a n ∈ f.stores := by simpa using stored n n.lt_succ_self
    exact (ih fun k hk => stored k (by omega)).writeAddr last_stored _

theorem State.Frame.loadRegs (h : s.Frame t f) {a n : Nat} (loaded : ∀ k < n, BitVec.ofNat 4 k ∈ f.regs) :
    s.Frame (t.loadRegs a n) f := by
  induction n with
  | zero => exact h
  | succ n ih => exact (ih fun k hk => loaded k (by omega)).writeV (loaded n n.lt_succ_self) _

/-- I moves only under LOADSTORE_INCREMENTS_I (43_index_memory.md R165, R166). -/
theorem State.Frame.bumpI (h : s.Frame t f) (marked : t.cfg.loadstoreIncrementsI = true → f.index = true) (n : Nat) :
    s.Frame (t.bumpI n) f :=
  { h with
    index := fun unmarked => by
      have stays : ¬t.cfg.loadstoreIncrementsI = true := fun e => by simp [marked e] at unmarked
      rw [State.bumpI_i, if_neg stays, h.index unmarked] }

theorem State.Frame.writeWithFlag (h : s.Frame t f) {x : Reg} (hx : x ∈ f.regs) (hf : regF ∈ f.regs) (r b : Byte) :
    s.Frame (t.writeWithFlag x r b) f :=
  (h.writeV hx r).writeV hf b

theorem State.Frame.writeLogic (h : s.Frame t f) {x : Reg} (regs_eq : f.regs = logicRegs t.cfg x) (r : Byte) :
    s.Frame (t.writeLogic x r) f := by
  unfold State.writeLogic
  unfold logicRegs at regs_eq
  split <;> rename_i toggle
  · exact h.writeWithFlag (by simp [regs_eq, toggle]) (by simp [regs_eq, toggle]) r 0
  · exact h.writeV (by simp [regs_eq, toggle]) r

/-- A frame may be read as a wider one. -/
theorem State.Frame.mark_index (h : s.Frame t f) : s.Frame t { f with index := true } :=
  { h with index := fun unmarked => by cases unmarked }

theorem State.Frame.trans {u : State} (h : s.Frame t f) (k : t.Frame u f) : s.Frame u f where
  regs y hy := (k.regs y hy).trans (h.regs y hy)
  mem a ha := (k.mem a ha).trans (h.mem a ha)
  index e := (k.index e).trans (h.index e)
  stack e := (k.stack e).trans (h.stack e)
  dt e := (k.dt e).trans (h.dt e)
  st e := (k.st e).trans (h.st e)
  fb e := (k.fb e).trans (h.fb e)
  run e := (k.run e).trans (h.run e)
  image := k.image.trans h.image

end

/-! ### The frame of every instruction -/

theorem byteAddr_mem_accessed (cfg : Config) (a : Nat) {k n : Nat} (hk : k < n) :
    byteAddr cfg a k ∈ accessed cfg a n :=
  List.mem_map_of_mem (List.mem_range.2 hk)

theorem ofNat_mem_firstRegs {k n : Nat} (hk : k < n) : BitVec.ofNat 4 k ∈ firstRegs n :=
  List.mem_map_of_mem (List.mem_range.2 hk)

theorem State.frame_effect (s : State) (i : Instr) : s.Frame (s.effect i) (s.footprint i) := by
  have advanced : s.Frame s.advance (s.footprint i) := (State.Frame.refl s _).setPc _
  cases i
  case jp | jpV0 => exact (State.Frame.refl s _).setPc _
  case seImm | sneImm | seReg | sneReg | skp | sknp => exact advanced.setPc _
  case ldImm | addImm | ldReg | rnd | ldVxDt => exact advanced.writeV List.mem_cons_self _
  case orReg | andReg | xorReg => exact advanced.writeLogic rfl _
  case addReg | sub | shr | subn | shl =>
    exact advanced.writeWithFlag List.mem_cons_self (List.mem_cons_of_mem _ List.mem_cons_self) _ _
  case ldI | addI | ldF => exact advanced.setI rfl _
  case cls => exact advanced.setFb rfl _
  case ret => exact ((State.Frame.refl s _).dropTop rfl).setPc _
  case call => exact ((State.Frame.refl s _).push rfl _).setPc _
  case drw => exact (advanced.setFb rfl _).writeV List.mem_cons_self _
  case ldVxK => exact (State.Frame.refl s _).setRun rfl _
  case ldDtVx => exact advanced.setDt rfl _
  case ldStVx => exact advanced.setSt rfl _
  case ldB x =>
    have stored {k : Nat} (hk : k < 3) := byteAddr_mem_accessed s.cfg s.i.toNat hk
    have first := advanced.writeAddr (stored (k := 0) (by decide)) (hundreds (s.readV x))
    have second := first.writeAddr (stored (k := 1) (by decide)) (tens (s.readV x))
    exact second.writeAddr (stored (k := 2) (by decide)) (ones (s.readV x))
  case ldStore =>
    have stored := advanced.storeRegs fun _ => byteAddr_mem_accessed s.cfg s.i.toNat
    exact stored.bumpI (fun toggle => by simpa [State.footprint] using toggle) _
  case ldLoad =>
    have loaded := advanced.loadRegs (a := s.i.toNat) fun _ => ofNat_mem_firstRegs
    exact loaded.bumpI (fun toggle => by simpa [State.footprint] using toggle) _

/-- Settles O45. -/
theorem everyInstructionKeepsItsFrame : Obligations.EveryInstructionKeepsItsFrame := by
  intro i s t none_met h
  cases (exec_of_no_error none_met).symm.trans h
  exact (s.frame_effect i).commit _

end Sys2Proof.Machine
end

section
/-! What no instruction touches, and which of its inputs an instruction reads. -/

namespace Sys2Proof.Machine

/-! ### The fields that are the host's (log 1 to 4, 9) -/

theorem State.sameHost_effect (s : State) (i : Instr) : s.SameHost (s.effect i) := by
  cases i
  case orReg | andReg | xorReg | ldStore | ldLoad => constructor <;> simp [State.effect]
  all_goals exact ⟨rfl, rfl, rfl, rfl, rfl⟩

/-- Settles O46: neither an error nor an effect, nor what ends the step, writes a field of the host. -/
theorem noInstructionTouchesHostFields : Obligations.NoInstructionTouchesHostFields := by
  intro i s t h
  rcases exec_next_cases h with ⟨e, -, rfl⟩ | ⟨-, rfl⟩
  · exact ⟨rfl, rfl, rfl, rfl, rfl⟩
  · exact { s.sameHost_effect i with }

/-! ### The hidden inputs: the key vector, the key history and the random byte -/

/-- `s` with other hidden inputs. -/
def State.withHidden (s : State) (keys prevKeys : Keys) (rnd : Byte) : State :=
  { s with keys := keys, prevKeys := prevKeys, rnd := rnd }

section
variable (s : State) (k p : Keys) (r : Byte)

theorem State.withHidden_writeLogic (x : Reg) (b : Byte) :
    (s.withHidden k p r).writeLogic x b = (s.writeLogic x b).withHidden k p r :=
  (apply_ite (State.withHidden · k p r) (s.cfg.logicResetsVf = true) (s.writeWithFlag x b 0) (s.writeV x b)).symm

theorem State.withHidden_storeRegs (a n : Nat) :
    (s.withHidden k p r).storeRegs a n = (s.storeRegs a n).withHidden k p r := by
  induction n with
  | zero => rfl
  | succ n ih => rw [State.storeRegs, State.storeRegs, ih]; rfl

theorem State.withHidden_loadRegs (a n : Nat) :
    (s.withHidden k p r).loadRegs a n = (s.loadRegs a n).withHidden k p r := by
  induction n with
  | zero => rfl
  | succ n ih => rw [State.loadRegs, State.loadRegs, ih]; rfl

theorem State.withHidden_drawRows (x0 y0 n : Nat) :
    (s.withHidden k p r).drawRows x0 y0 n = s.drawRows x0 y0 n := by
  induction n with
  | zero => rfl
  | succ n ih => rw [State.drawRows, State.drawRows, ih]; rfl

theorem State.withHidden_drawing (x y : Reg) (n : Nibble) :
    (s.withHidden k p r).drawing x y n = s.drawing x y n := s.withHidden_drawRows k p r _ _ _

theorem State.withHidden_instrError (i : Instr) : (s.withHidden k p r).instrError i = s.instrError i := by
  cases i <;> rfl

end

/-- Only the key skips read the key vector, only RND the random byte, and nothing the key history. -/
theorem State.withHidden_effect {s : State} {i : Instr} {k p : Keys} {r : Byte}
    (same_keys : (∃ x, i = .skp x ∨ i = .sknp x) → k = s.keys)
    (same_rnd : (∃ x nn, i = .rnd x nn) → r = s.rnd) :
    (s.withHidden k p r).effect i = (s.effect i).withHidden k p r := by
  cases i
  case skp x => cases same_keys ⟨x, .inl rfl⟩; rfl
  case sknp x => cases same_keys ⟨x, .inr rfl⟩; rfl
  case rnd x nn => cases same_rnd ⟨x, nn, rfl⟩; rfl
  case orReg | andReg | xorReg => exact s.advance.withHidden_writeLogic k p r _ _
  case ldStore x => exact congrArg (State.bumpI · _) (s.advance.withHidden_storeRegs k p r _ _)
  case ldLoad x => exact congrArg (State.bumpI · _) (s.advance.withHidden_loadRegs k p r _ _)
  case drw x y n => simp only [State.effect, State.withHidden_drawing]; rfl
  all_goals rfl

/-- An instruction that reads none of the inputs that change ends as before, but for them and for the key history. -/
theorem exec_withHidden {s t : State} {i : Instr} {k p : Keys} {r : Byte}
    (same_keys : (∃ x, i = .skp x ∨ i = .sknp x) → k = s.keys)
    (same_rnd : (∃ x nn, i = .rnd x nn) → r = s.rnd)
    (h : exec i s = .next t) :
    ∃ q, exec i (s.withHidden k p r) = .next (t.withHidden k q r) ∧
      (k = s.keys → p = s.prevKeys → q = t.prevKeys) := by
  rcases exec_next_cases h with ⟨e, met, rfl⟩ | ⟨none_met, rfl⟩
  · exact ⟨p, exec_of_error ((s.withHidden_instrError k p r i).trans met), fun _ prev_eq => prev_eq⟩
  · refine ⟨k, ?_, fun keys_eq _ => keys_eq.trans (s.sameHost_effect i).keys.symm⟩
    rw [exec_of_no_error ((s.withHidden_instrError k p r i).trans none_met), State.withHidden_effect same_keys same_rnd]
    rfl

/-- Settles O47. -/
theorem onlyRandomReadsRnd : Obligations.OnlyRandomReadsRnd := by
  intro i s t r not_rnd h
  obtain ⟨q, same, prev_eq⟩ := exec_withHidden (k := s.keys) (p := s.prevKeys) (r := r) (fun _ => rfl)
    (fun ⟨x, nn, e⟩ => absurd e (not_rnd x nn)) h
  have keys_eq : t.keys = s.keys := (noInstructionTouchesHostFields i s t h).keys
  exact same.trans (by rw [prev_eq rfl rfl, ← keys_eq]; rfl)

/-- Settles O48. -/
theorem onlyKeySkipsReadKeys : Obligations.OnlyKeySkipsReadKeys := by
  intro i s t k p h
  obtain ⟨-, keys_eq, rnd_eq, -, -⟩ := noInstructionTouchesHostFields i s t h
  constructor
  · intro not_skip
    obtain ⟨q, same, -⟩ := exec_withHidden (k := k) (p := s.prevKeys) (r := s.rnd)
      (fun ⟨x, e⟩ => absurd e (not_or.2 (not_skip x))) (fun _ => rfl) h
    exact ⟨_, same, by rw [← rnd_eq]; rfl⟩
  · obtain ⟨q, same, -⟩ := exec_withHidden (k := s.keys) (p := p) (r := s.rnd) (fun _ => rfl) (fun _ => rfl) h
    exact ⟨_, same, by rw [← rnd_eq, ← keys_eq]; rfl⟩

end Sys2Proof.Machine
end

section
/-! What a step can do (40_pipeline.md R108) and what a transaction can do (60_exceptions.md R239), each said once, and
the rule by which a property is an invariant of the machine. -/

namespace Sys2Proof.Machine

/-! ### The first error a step in Ready meets (60_exceptions.md R224) -/

theorem State.firstError_of_range {s : State} {a : Nat} (range : rangeError s.cfg s.pc.toNat 2 = some a) :
    s.firstError = some (.memoryAccessOutOfRange s.pc a) := by
  simp [State.firstError, range]

theorem State.firstError_of_invalid {s : State} {why : Illegal} (range : rangeError s.cfg s.pc.toNat 2 = none)
    (rejects : decode s.fetchWord = .invalid why) : s.firstError = some (.invalidOpcode s.pc s.fetchWord) := by
  simp [State.firstError, range, rejects]

theorem State.firstError_of_instr {s : State} {i : Instr} (range : rangeError s.cfg s.pc.toNat 2 = none)
    (decodes : decode s.fetchWord = .instr i) : s.firstError = s.instrError i := by
  simp [State.firstError, range, decodes]

/-- A step in Ready raises its first error, or has the effect of the instruction at pc. -/
theorem runReady_eq (s : State) :
    (∃ e, s.firstError = some e ∧ runReady s = .next (s.halt e)) ∨
    (∃ i, s.firstError = none ∧ rangeError s.cfg s.pc.toNat 2 = none ∧ decode s.fetchWord = .instr i ∧
      s.instrError i = none ∧ runReady s = .next ((s.effect i).commit (answerOf i))) := by
  rcases runReady_cases s with ⟨a, range, raises⟩ | ⟨why, range, rejects, raises⟩ | ⟨i, range, decodes, runs⟩
  · exact .inl ⟨_, State.firstError_of_range range, raises⟩
  · exact .inl ⟨_, State.firstError_of_invalid range rejects, raises⟩
  · have first := State.firstError_of_instr range decodes
    cases met : s.instrError i with
    | some e => exact .inl ⟨e, first.trans met, runs.trans (exec_of_error met)⟩
    | none => exact .inr ⟨i, first.trans met, range, decodes, met, runs.trans (exec_of_no_error met)⟩

/-! ### What a step can do -/

theorem runStep_of_ready {s : State} (ready : s.run = .ready) : runStep s = runReady s := by simp [runStep, ready]

theorem runStep_of_awaiting {s : State} {x : Reg} (awaiting : s.run = .awaitingKey x) : runStep s = keyWait x s := by
  simp [runStep, awaiting]

theorem runStep_of_halted {s : State} (halted : s.run = .halted) :
    runStep s = .next { s with result := .notRunning } := by
  simp [runStep, halted, runHalted]

/-- The five ways a step ends, by the run state it starts in. -/
inductive State.StepsTo (s : State) : State → Prop
  | raised (e : FatalError) (ready : s.run = .ready) (meets : s.firstError = some e) : s.StepsTo (s.halt e)
  | executed (i : Instr) (ready : s.run = .ready) (range : rangeError s.cfg s.pc.toNat 2 = none)
      (decodes : decode s.fetchWord = .instr i) (none_met : s.instrError i = none) :
      s.StepsTo ((s.effect i).commit (answerOf i))
  | waits (x : Reg) (awaiting : s.run = .awaitingKey x) : s.StepsTo (s.commit .waiting)
  | pressed (x : Reg) (k : Nat) (awaiting : s.run = .awaitingKey x) (lowest : lowestKey s.newKeys = some k) :
      s.StepsTo (((s.advance.writeV x (BitVec.ofNat 8 k)).setRun .ready).commit .ok)
  | stays (halted : s.run = .halted) : s.StepsTo { s with result := .notRunning }

theorem runStep_stepsTo (s : State) : ∃ t, runStep s = .next t ∧ s.StepsTo t := by
  cases run_eq : s.run with
  | ready =>
    rw [runStep_of_ready run_eq]
    rcases runReady_eq s with ⟨e, meets, raises⟩ | ⟨i, -, range, decodes, none_met, runs⟩
    · exact ⟨_, raises, .raised e run_eq meets⟩
    · exact ⟨_, runs, .executed i run_eq range decodes none_met⟩
  | awaitingKey x =>
    rw [runStep_of_awaiting run_eq]
    rcases keyWait_cases x s with ⟨-, waits⟩ | ⟨k, lowest, ends⟩
    · exact ⟨_, waits, .waits x run_eq⟩
    · exact ⟨_, ends, .pressed x k run_eq lowest⟩
  | halted => exact ⟨_, runStep_of_halted run_eq, .stays run_eq⟩

theorem State.StepsTo.of_runStep {s t : State} (h : runStep s = .next t) : s.StepsTo t := by
  obtain ⟨t', ends, steps⟩ := runStep_stepsTo s
  cases ends.symm.trans h
  exact steps

theorem State.StepsTo.pending_eq {s t : State} (h : s.StepsTo t) : t.pending = s.pending := by
  cases h
  case executed i _ _ _ _ => exact (s.sameHost_effect i).pending
  all_goals rfl

/-- Only FX0A moves the run state, and only it answers Waiting (60_exceptions.md R230). -/
theorem State.run_effect (s : State) (i : Instr) :
    ((s.effect i).run = s.run ∧ answerOf i = .ok) ∨ ∃ x, i = .ldVxK x := by
  cases i
  case ldVxK x => exact .inr ⟨x, rfl⟩
  all_goals exact .inl ⟨(s.frame_effect _).run rfl, rfl⟩

/-! ### What a transaction can do -/

theorem imageFits_iff (image : List Byte) : imageFits image = true ↔ image.length ≤ 3584 := decide_eq_true_iff

theorem runLoad_of_fits {image : List Byte} (fits : image.length ≤ 3584) (s : State) :
    runLoad image s = .next { s.loaded image with result := .ok } := by
  rw [runLoad, if_pos ((imageFits_iff image).2 fits)]

theorem runLoad_of_too_large {image : List Byte} (too_large : 3584 < image.length) (s : State) :
    runLoad image s = .next { s with result := .imageTooLarge } := by
  rw [runLoad, if_neg (fun fits => absurd ((imageFits_iff image).1 fits) (by omega))]

/-- What each transaction may leave. -/
inductive State.TransactsTo (s : State) : Transaction → State → Prop
  | loaded (image : List Byte) (fits : image.length ≤ 3584) :
      s.TransactsTo (.load image) { s.loaded image with result := .ok }
  | refused (image : List Byte) (too_large : 3584 < image.length) :
      s.TransactsTo (.load image) { s with result := .imageTooLarge }
  | reset : s.TransactsTo .reset { s.loaded s.image with result := .nothing }
  | stepped (keys : Keys) (rnd : Byte) (t : State) (steps : (s.withInputs keys rnd).StepsTo t) :
      s.TransactsTo (.step keys rnd) t
  | ticked : s.TransactsTo .tick { s with dt := countDown s.dt, st := countDown s.st, result := .nothing }

theorem runTransaction_transactsTo (u : Transaction) (s : State) :
    ∃ t, runTransaction u s = .next t ∧ s.TransactsTo u t := by
  cases u with
  | load image =>
    rcases Nat.lt_or_ge 3584 image.length with too_large | fits
    · exact ⟨_, runLoad_of_too_large too_large s, .refused image too_large⟩
    · exact ⟨_, runLoad_of_fits fits s, .loaded image fits⟩
  | reset => exact ⟨_, rfl, .reset⟩
  | step keys rnd =>
    obtain ⟨t, ends, steps⟩ := runStep_stepsTo (s.withInputs keys rnd)
    exact ⟨t, ends, .stepped keys rnd t steps⟩
  | tick => exact ⟨_, rfl, .ticked⟩

theorem State.TransactsTo.of_runTransaction {u : Transaction} {s t : State} (h : runTransaction u s = .next t) :
    s.TransactsTo u t := by
  obtain ⟨t', ends, transacts⟩ := runTransaction_transactsTo u s
  cases ends.symm.trans h
  exact transacts

theorem State.TransactsTo.pending_eq {u : Transaction} {s t : State} (h : s.TransactsTo u t) :
    t.pending = s.pending := by
  cases h
  case stepped steps => exact steps.pending_eq
  all_goals rfl

theorem step_of_pending {s : State} {u : Transaction} {rest : List Transaction} (pending : s.pending = u :: rest) :
    step s = runTransaction u { s with pending := rest } := by
  rcases step_cases s with ⟨u', rest', pending', runs⟩ | ⟨idle, -⟩
  · cases pending.symm.trans pending'; exact runs
  · cases pending.symm.trans idle

theorem step_of_idle {s : State} (idle : s.pending = []) :
    step s =
      runTransaction (.step (Config.freeKeys s.draws) (Config.freeRnd s.draws)) { s with draws := s.draws + 1 } := by
  rcases step_cases s with ⟨u, rest, pending, -⟩ | ⟨-, runs⟩
  · cases idle.symm.trans pending
  · exact runs

/-- Settles O13. -/
theorem everyStepHasANextState : Obligations.EveryStepHasANextState := by
  intro s
  rcases step_cases s with ⟨u, rest, -, runs⟩ | ⟨-, runs⟩
  all_goals
    obtain ⟨t, ends, -⟩ := runTransaction_transactsTo _ _
    exact ⟨t, runs.trans ends⟩

/-- Settles O10: the head of the pending transactions runs, and no transaction touches the others. -/
theorem pendingTransactionsRunInOrder : Obligations.PendingTransactionsRunInOrder := by
  intro s u rest pending
  obtain ⟨t, ends, transacts⟩ := runTransaction_transactsTo u { s with pending := rest }
  exact ⟨step_of_pending pending, t, (step_of_pending pending).trans ends, transacts.pending_eq⟩

/-! ### Invariants -/

/-- A property is an invariant of the machine when it speaks of neither the timers, the answer, the inputs nor the
transactions to come, holds after a load, and is kept by every way a step ends. -/
theorem step_invariant {P : State → Prop}
    (beside : ∀ s dt st result pending draws keys rnd, P s → P { s with
      dt := dt, st := st, result := result, pending := pending, draws := draws, keys := keys, rnd := rnd })
    (loaded : ∀ s image, P s → image.length ≤ 3584 → P (s.loaded image))
    (reset : ∀ s, P s → P (s.loaded s.image))
    (stepped : ∀ s t, P s → s.StepsTo t → P t)
    {s t : State} (holds : P s) (h : step s = .next t) : P t := by
  have transaction : ∀ u s t, P s → runTransaction u s = .next t → P t := by
    intro u s t holds h
    cases State.TransactsTo.of_runTransaction h with
    | loaded image fits => exact beside _ _ _ _ _ _ _ _ (loaded s image holds fits)
    | refused => exact beside _ _ _ _ _ _ _ _ holds
    | reset => exact beside _ _ _ _ _ _ _ _ (reset s holds)
    | stepped keys rnd _ steps => exact stepped _ t (beside _ _ _ _ _ _ _ _ holds) steps
    | ticked => exact beside _ _ _ _ _ _ _ _ holds
  rcases step_cases s with ⟨u, rest, -, runs⟩ | ⟨-, runs⟩
  all_goals exact transaction _ _ t (beside _ _ _ _ _ _ _ _ holds) (runs.symm.trans h)

end Sys2Proof.Machine
end

section
/-! The four invariants: the shape of the state, pc in a key wait, the precise halt, and the bound on pc. -/

namespace Sys2Proof.Machine

/-! ### The shape of the state (20_memory.md R50, 10_state.md R31, 70_reset_and_hazards.md R250) -/

/-- What follows a passed range check stores inside memory, so the list stays canonical. -/
theorem State.wf_mem_effect {s : State} {i : Instr} (wf : Memory.wf (unlistedByte s.cfg.font) s.mem)
    (none_met : s.instrError i = none) : Memory.wf (unlistedByte s.cfg.font) (s.effect i).mem := by
  cases i
  case ldB x =>
    have in_memory {k : Nat} (hk : k < 3) := byteAddr_lt s.cfg s.i.toNat 3 k (Option.map_eq_none_iff.1 none_met) hk
    exact Memory.wf_write _ _ _ _ (Memory.wf_write _ _ _ _ (Memory.wf_write _ _ _ _ wf (in_memory (by decide)))
      (in_memory (by decide))) (in_memory (by decide))
  case ldStore x =>
    exact State.wf_storeRegs s.advance s.i.toNat _ (Option.map_eq_none_iff.1 none_met) wf _ le_rfl
  case orReg | andReg | xorReg | ldLoad => simpa [State.effect] using wf
  all_goals exact wf

/-- Only CALL deepens the stack, and it met no error, so it was not full. -/
theorem State.depth_effect_le {s : State} {i : Instr} (depth : s.depth ≤ 16) (none_met : s.instrError i = none) :
    (s.effect i).depth ≤ 16 := by
  cases i
  case call nnn =>
    have fits : s.depth ≠ 16 := by simpa [State.instrError] using none_met
    have deeper : (s.effect (.call nnn)).depth = s.depth + 1 := by simp [State.effect, State.depth]
    omega
  case ret =>
    have shallower : (s.effect .ret).depth = s.depth - 1 := by simp [State.effect, State.depth]
    omega
  all_goals exact (congrArg List.length ((s.frame_effect _).stack rfl)).trans_le depth

theorem State.Wf.effect {s : State} {i : Instr} (wf : s.Wf) (none_met : s.instrError i = none) : (s.effect i).Wf where
  memory := by rw [(s.sameHost_effect i).cfg]; exact State.wf_mem_effect wf.memory none_met
  depth := State.depth_effect_le wf.depth none_met
  image := by rw [(s.frame_effect i).image]; exact wf.image

theorem State.wf_loaded (s : State) {image : List Byte} (fits : image.length ≤ 3584) : (s.loaded image).Wf where
  memory := Memory.wf_load _ _ _ (Nat.add_le_of_le_sub' (by decide) fits)
  depth := Nat.zero_le _
  image := fits

/-- Settles O56. -/
theorem everyStepKeepsWf : Obligations.EveryStepKeepsWf := by
  intro s t
  refine step_invariant (P := State.Wf) (fun s _ _ _ _ _ _ _ wf => { wf with })
    (fun s image _ fits => s.wf_loaded fits) (fun s wf => s.wf_loaded wf.image) ?_
  intro s t wf steps
  cases steps with
  | executed i _ _ _ none_met => exact { wf.effect none_met with }
  | raised | waits | pressed | stays => exact { wf with }

/-! ### pc in a key wait (10_state.md R27) -/

theorem State.waitsAtKeyInstr_loaded (s : State) (image : List Byte) : (s.loaded image).WaitsAtKeyInstr :=
  fun _ awaiting => by cases awaiting

/-- The wait starts at the FX0A it is for, whose effect moves neither pc nor memory, and neither does a step that goes
on waiting. -/
theorem State.StepsTo.waitsAtKeyInstr {s t : State} (steps : s.StepsTo t) (at_key : s.WaitsAtKeyInstr) :
    t.WaitsAtKeyInstr := by
  intro x awaiting
  cases steps with
  | raised | pressed => cases awaiting
  | waits | stays => exact at_key x awaiting
  | executed i ready range decodes =>
    rcases s.run_effect i with ⟨run_eq, -⟩ | ⟨y, rfl⟩
    · cases (run_eq.trans ready).symm.trans awaiting
    · cases awaiting
      exact ⟨range, decodes⟩

/-- Settles O57. -/
theorem everyStepKeepsKeyWaitPc : Obligations.EveryStepKeepsKeyWaitPc := fun _ _ at_key h =>
  step_invariant (P := State.WaitsAtKeyInstr) (fun _ _ _ _ _ _ _ _ at_key => at_key)
    (fun s image _ _ => s.waitsAtKeyInstr_loaded image) (fun s _ => s.waitsAtKeyInstr_loaded s.image)
    (fun _ _ at_key steps => steps.waitsAtKeyInstr at_key) at_key h

/-! ### The precise halt (60_exceptions.md R222) -/

/-- Settles O58: what raises a fatal error leaves all that the error was read off from, and nothing else halts. -/
theorem everyStepKeepsHaltPrecise : Obligations.EveryStepKeepsHaltPrecise := by
  intro s t
  refine step_invariant (P := State.HaltedAtError) (fun s _ _ _ _ _ _ _ at_error => at_error)
    (fun s image _ _ halted => by cases halted) (fun s _ halted => by cases halted) ?_
  intro s t at_error steps halted
  cases steps with
  | raised e ready meets =>
    have same_error : (s.halt e).firstError = s.firstError := rfl
    rw [same_error, meets]
    rfl
  | executed i ready =>
    rcases s.run_effect i with ⟨run_eq, -⟩ | ⟨y, rfl⟩
    · cases (run_eq.trans ready).symm.trans halted
    · cases halted
  | waits x awaiting => cases awaiting.symm.trans halted
  | pressed => cases halted
  | stays => exact at_error halted

/-! ### The bound on pc (10_state.md R29) -/

/-- Under `check` a fetch that goes on is below 0xFFF. -/
theorem pc_le_of_fetched {s : State} (check : s.cfg.addrPolicy = .check)
    (range : rangeError s.cfg s.pc.toNat 2 = none) :
    s.pc.toNat ≤ 0xFFE := by
  have last_byte := (rangeError_eq_none ..).1 range check (by decide)
  omega

theorem toNat_add_two {w : Word} (h : w.toNat ≤ 0xFFE) : (w + 2).toNat = w.toNat + 2 := by bv_omega

theorem toNat_wordOf (b : Byte) : (wordOf b).toNat = b.toNat := BitVec.toNat_setWidth_of_le (by decide)

/-- The sum of BNNN does not wrap at 16 bits (41_control_flow.md R124). -/
theorem toNat_addrOf_add_wordOf (nnn : Addr) (b : Byte) : (addrOf nnn + wordOf b).toNat = nnn.toNat + b.toNat := by
  rw [BitVec.toNat_add, toNat_addrOf, toNat_wordOf, Nat.mod_eq_of_lt (by omega)]

theorem State.pc_skipIf_le (s : State) (taken : Bool) (h : s.pc.toNat ≤ 0xFFE) :
    (s.advance.skipIf taken).pc.toNat ≤ 0x1002 := by
  rw [State.advance_skipIf, State.setPc_pc]
  split <;> bv_omega

theorem State.pc_effect_le {s : State} (i : Instr) (pc_le : s.pc.toNat ≤ 0xFFE)
    (stack_le : ∀ a ∈ s.stack, a.toNat ≤ 0x1000) : (s.effect i).pc.toNat ≤ 0x10FE := by
  have next_le : s.advance.pc.toNat ≤ 0x10FE := by rw [State.advance_pc, toNat_add_two pc_le]; omega
  cases i
  case jp nnn | call nnn =>
    have target : (addrOf nnn).toNat < 4096 := (toNat_addrOf nnn).trans_lt nnn.isLt
    exact (target.trans (by decide)).le
  case jpV0 nnn =>
    have target := toNat_addrOf_add_wordOf nnn (s.jumpOffset nnn)
    simp only [State.effect, State.setPc_pc]
    omega
  case ret =>
    have popped_le : (s.stack.getLastD 0).toNat ≤ 0x1000 := by
      rcases List.eq_nil_or_concat s.stack with empty | ⟨below, a, top⟩
      · simp [empty]
      · simpa [top] using stack_le a (by simp [top])
    exact popped_le.trans (by decide)
  case seImm | sneImm | seReg | sneReg | skp | sknp => exact (s.pc_skipIf_le _ pc_le).trans (by decide)
  case ldVxK => exact pc_le.trans (by decide)
  case orReg | andReg | xorReg | ldStore | ldLoad => simpa [State.effect] using next_le
  all_goals exact next_le

theorem State.stack_effect_le {s : State} (i : Instr) (pc_le : s.pc.toNat ≤ 0xFFE)
    (stack_le : ∀ a ∈ s.stack, a.toNat ≤ 0x1000) : ∀ a ∈ (s.effect i).stack, a.toNat ≤ 0x1000 := by
  cases i
  case ret => exact fun a ha => stack_le a (List.mem_of_mem_dropLast ha)
  case call nnn =>
    intro a ha
    rcases List.mem_append.1 ha with below | pushed
    · exact stack_le a below
    · rw [List.mem_singleton.1 pushed, toNat_add_two pc_le]
      omega
  all_goals rwa [(s.frame_effect _).stack rfl]

theorem State.pcBounded_loaded (s : State) (image : List Byte) : (s.loaded image).PcBounded :=
  fun _ => ⟨by simp [State.loaded], fun a ha => absurd ha List.not_mem_nil⟩

/-- A step that moves pc has fetched, or waits at an instruction that was, so pc is below 0xFFF. -/
theorem State.StepsTo.pcBounded {s t : State} (steps : s.StepsTo t) (at_key : s.WaitsAtKeyInstr)
    (bounded : s.PcBounded) : t.PcBounded := by
  cases steps with
  | raised | waits | stays => exact bounded
  | executed i _ range =>
    intro check
    have check : s.cfg.addrPolicy = .check := by rwa [← (s.sameHost_effect i).cfg]
    have pc_le := pc_le_of_fetched check range
    obtain ⟨-, stack_le⟩ := bounded check
    exact ⟨s.pc_effect_le i pc_le stack_le, s.stack_effect_le i pc_le stack_le⟩
  | pressed x k awaiting =>
    intro check
    obtain ⟨range, -⟩ := at_key x awaiting
    have pc_le := pc_le_of_fetched (s := s) check range
    have next_le : (s.pc + 2).toNat ≤ 0x10FE := by rw [toNat_add_two pc_le]; omega
    obtain ⟨-, stack_le⟩ := bounded check
    exact ⟨next_le, stack_le⟩

/-- Settles O59, together with the invariant of O57, which says that a key wait has passed the fetch. -/
theorem everyStepKeepsPcBounded : Obligations.EveryStepKeepsPcBounded := by
  intro s t at_key bounded h
  have both := step_invariant (P := fun s => s.WaitsAtKeyInstr ∧ s.PcBounded)
    (fun _ _ _ _ _ _ _ _ both => both)
    (fun s image _ _ => ⟨s.waitsAtKeyInstr_loaded image, s.pcBounded_loaded image⟩)
    (fun s _ => ⟨s.waitsAtKeyInstr_loaded s.image, s.pcBounded_loaded s.image⟩)
    (fun _ _ ⟨at_key, bounded⟩ steps => ⟨steps.waitsAtKeyInstr at_key, steps.pcBounded at_key bounded⟩)
    ⟨at_key, bounded⟩ h
  exact both.2

/-- Settles O60: in Ready at 0x200, with an empty stack, an empty image and nothing listed in memory. -/
theorem resetMeetsInvariants : Obligations.ResetMeetsInvariants := by
  refine ⟨⟨by decide, by decide, by decide⟩, ?_, ?_, ?_⟩
  · intro x awaiting
    cases awaiting
  · intro halted
    cases halted
  · exact fun _ => ⟨by decide, fun a ha => absurd ha List.not_mem_nil⟩

end Sys2Proof.Machine
end

section
/-! The step (40_pipeline.md): the fetch, the decode, the first error, the key wait (45_input.md) and the run states. -/

namespace Sys2Proof.Machine

/-! ### Fetch and decode (40_pipeline.md R101, R104) -/

theorem InRange.rangeError_eq_none {cfg : Config} {a n : Nat} (h : InRange cfg a n) : rangeError cfg a n = none :=
  (Machine.rangeError_eq_none cfg a n).2 h

theorem runReady_of_decode {s : State} {i : Instr} (in_range : InRange s.cfg s.pc.toNat 2)
    (decodes : decode s.fetchWord = .instr i) : runReady s = exec i s := by
  rw [runReady, checked_of_none in_range.rangeError_eq_none, decodes, runDecoded]

/-- Settles O6: neither the transactions left, the inputs nor the counter of free inputs moves pc or memory, so the
word fetched is the one at pc of `s`. -/
theorem stepRunsDecodedInstruction : Obligations.StepRunsDecodedInstruction := by
  intro s i ready in_range decodes
  constructor
  · intro keys rnd rest pending
    let t : State := { s with pending := rest, keys := keys, rnd := rnd }
    calc step s = runStep t := step_of_pending pending
      _ = runReady t := runStep_of_ready ready
      _ = exec i t := runReady_of_decode in_range decodes
  · intro idle
    let t : State :=
      { s with draws := s.draws + 1, keys := Config.freeKeys s.draws, rnd := Config.freeRnd s.draws }
    calc step s = runStep t := step_of_idle idle
      _ = runReady t := runStep_of_ready ready
      _ = exec i t := runReady_of_decode in_range decodes

theorem toNat_wordOfBytes (hi lo : Byte) : (wordOfBytes hi lo).toNat = 256 * hi.toNat + lo.toNat := by
  have append := BitVec.toNat_append hi lo
  rw [← Nat.shiftLeft_add_eq_or_of_lt lo.isLt, Nat.shiftLeft_eq, Nat.mul_comm] at append
  exact append

/-- The word of the two bytes at pc by the address policy is what a fetch that goes on runs. -/
theorem runStep_of_word {s : State} {w : Word} {i : Instr} (ready : s.run = .ready)
    (in_range : InRange s.cfg s.pc.toNat 2)
    (bytes : w.toNat = 256 * (s.readByte s.pc.toNat 0).toNat + (s.readByte s.pc.toNat 1).toNat)
    (decodes : decode w = .instr i) : runStep s = exec i s := by
  have word_eq : w = s.fetchWord := BitVec.eq_of_toNat_eq (bytes.trans (toNat_wordOfBytes _ _).symm)
  rw [runStep_of_ready ready, runReady_of_decode in_range (word_eq ▸ decodes)]

theorem State.readByte_of_check {s : State} (check : s.cfg.addrPolicy = .check) (a k : Nat) :
    s.readByte a k = s.readAddr (a + k) := by
  simp [State.readByte, byteAddr, check]

theorem State.readByte_of_mask {s : State} (mask : s.cfg.addrPolicy = .mask) (a k : Nat) :
    s.readByte a k = s.readAddr ((a + k) % 4096) := by
  simp [State.readByte, byteAddr, mask]

theorem inRange_of_mask {cfg : Config} (mask : cfg.addrPolicy = .mask) (a n : Nat) : InRange cfg a n :=
  fun check => by cases check.symm.trans mask

/-- Settles O7: under `check` the access of two bytes at pc ends at or below 0xFFF exactly below pc 0xFFF; under `mask`
it always goes on. -/
theorem fetchWordOrRangeError : Obligations.FetchWordOrRangeError := by
  intro s ready
  refine ⟨fun check outside => ?_, fun check inside w bytes i => ?_, fun mask w bytes i => ?_⟩
  · have range : rangeError s.cfg s.pc.toNat 2 = some (max s.pc.toNat 0x1000) :=
      (rangeError_eq_some ..).2 ⟨check, by decide, by omega, rfl⟩
    rw [runStep_of_ready ready, runReady, checked_of_some range]
    rfl
  · refine runStep_of_word ready (fun _ _ => by omega) ?_
    rwa [State.readByte_of_check check, State.readByte_of_check check]
  · refine runStep_of_word ready (inRange_of_mask mask _ _) ?_
    rwa [State.readByte_of_mask mask, State.readByte_of_mask mask]

/-- Settles O8: a word in no row decodes to no instruction, which is what raises. -/
theorem invalidWordRaisesInvalidOpcode : Obligations.InvalidWordRaisesInvalidOpcode := by
  intro s ready in_range no_row
  obtain ⟨why, rejects⟩ := (decodeFollowsOpcodeTable s.fetchWord).2.2 no_row
  rw [runStep_of_ready ready, runReady, checked_of_none in_range.rangeError_eq_none, rejects]
  rfl

/-- Settles O9. -/
theorem haltedStepChangesNothing : Obligations.HaltedStepChangesNothing := fun _ => runStep_of_halted

/-! ### The first error, and the answer without one (40_pipeline.md R100, R106, R107) -/

/-- Settles O11: without an error the step has the effect of an instruction, which answers Waiting and leaves
AwaitingKey when it is FX0A, and answers Ok and stays in Ready when it is another. -/
theorem stepRaisesExactlyFirstError : Obligations.StepRaisesExactlyFirstError := by
  intro s ready
  rw [runStep_of_ready ready]
  rcases runReady_eq s with ⟨e, meets, raises⟩ | ⟨i, none_met, -, -, -, runs⟩
  · exact ⟨fun e' meets' => (by cases meets.symm.trans meets'; exact raises),
      fun none_met => (by cases meets.symm.trans none_met)⟩
  · refine ⟨fun e meets => (by cases none_met.symm.trans meets),
      fun _ => ⟨_, runs, (s.sameHost_effect i).keys, ?_⟩⟩
    rcases s.run_effect i with ⟨run_eq, answer_eq⟩ | ⟨x, rfl⟩
    · exact .inr ⟨answer_eq, run_eq.trans ready⟩
    · exact .inl ⟨rfl, x, rfl⟩

/-! ### Errors of the address policy (60_exceptions.md R221) -/

theorem State.instrError_ne_outOfRange {s : State} (mask : s.cfg.addrPolicy = .mask) (i : Instr) (addr : Word)
    (a : Nat) : s.instrError i ≠ some (.memoryAccessOutOfRange addr a) := by
  have in_range n : rangeError s.cfg s.i.toNat n = none := (inRange_of_mask mask _ n).rangeError_eq_none
  cases i
  case call | ret => simp [State.instrError]
  case drw | ldB | ldStore | ldLoad => simp [State.instrError, in_range]
  all_goals exact nofun

theorem State.firstError_ne_outOfRange {s : State} (mask : s.cfg.addrPolicy = .mask) (addr : Word) (a : Nat) :
    s.firstError ≠ some (.memoryAccessOutOfRange addr a) := by
  have range := (inRange_of_mask mask s.pc.toNat 2).rangeError_eq_none
  cases decoded : decode s.fetchWord with
  | instr i => rw [State.firstError_of_instr range decoded]; exact State.instrError_ne_outOfRange mask i addr a
  | invalid why => simp [State.firstError_of_invalid range decoded]

theorem answerOf_ne_fatal (i : Instr) (e : FatalError) : answerOf i ≠ .fatal e := by
  cases i <;> exact nofun

/-- Settles O12. -/
theorem maskPolicyNeverOutOfRange : Obligations.MaskPolicyNeverOutOfRange := by
  intro s t addr a mask h
  cases State.StepsTo.of_runStep h with
  | raised e _ meets =>
    intro answer
    cases answer
    exact State.firstError_ne_outOfRange mask addr a meets
  | executed i => exact answerOf_ne_fatal i _
  | waits | pressed | stays => exact nofun

/-! ### The key wait (45_input.md R193) -/

theorem State.getLsbD_newKeys (s : State) {k : Nat} (hk : k < 16) :
    s.newKeys.getLsbD k = (s.keys.getLsbD k && !s.prevKeys.getLsbD k) := by
  simp [State.newKeys, hk]

theorem State.newKeys_false (s : State) {k : Nat} (hk : k < 16)
    (not_new : s.keys.getLsbD k = true → s.prevKeys.getLsbD k = true) : s.newKeys.getLsbD k = false := by
  rw [s.getLsbD_newKeys hk]
  cases down : s.keys.getLsbD k with
  | false => rfl
  | true => simp [not_new down]

/-- Settles O41: the wait goes on when no bit of the new keys is set, and else ends with the lowest set bit. -/
theorem keyWaitEndsOnNewKey : Obligations.KeyWaitEndsOnNewKey := by
  intro x s awaiting
  rw [runStep_of_awaiting awaiting]
  constructor
  · intro no_new
    have none_lowest : lowestKey s.newKeys = none :=
      (lowestFrom_eq_none _ 0 16).2 fun k _ hk => s.newKeys_false (by omega) (no_new k (by omega))
    simp only [keyWait, none_lowest]
    rfl
  · intro k hk down released lower_not_new
    have lowest : lowestKey s.newKeys = some k := by
      refine (lowestFrom_eq_some _ 0 16 k).2 ⟨k.zero_le, by omega, ?_, fun j _ hj => ?_⟩
      · rw [s.getLsbD_newKeys hk, down, released]
        rfl
      · exact s.newKeys_false (by omega) (lower_not_new j hj)
    have key_eq : (BitVec.ofNat 8 k).toNat = k := Nat.mod_eq_of_lt (by omega)
    have frame : s.Frame ((s.advance.writeV x (BitVec.ofNat 8 k)).setRun .ready) { regs := [x], run := true } :=
      (((State.Frame.refl s _).setPc _).writeV List.mem_cons_self _).setRun rfl _
    refine ⟨_, by simp only [keyWait, lowest]; rfl, ?_, rfl, rfl, rfl, rfl, frame.commit _⟩
    simp [key_eq]

/-! ### The run states (60_exceptions.md R230) -/

/-- Settles O50. -/
theorem runStateTransitions : Obligations.RunStateTransitions := by
  intro s t h
  cases State.StepsTo.of_runStep h with
  | raised e ready =>
    exact ⟨fun _ => .inr (.inl rfl), fun x awaiting => (by cases ready.symm.trans awaiting), fun _ => rfl⟩
  | executed i ready _ decodes =>
    refine ⟨fun _ => ?_, fun x awaiting => (by cases ready.symm.trans awaiting),
      fun halted => (by cases ready.symm.trans halted)⟩
    rcases s.run_effect i with ⟨run_eq, -⟩ | ⟨x, rfl⟩
    · exact .inl (run_eq.trans ready)
    · exact .inr (.inr ⟨x, rfl, decodes⟩)
  | waits x awaiting =>
    exact ⟨fun ready => (by cases awaiting.symm.trans ready), fun _ => .inl,
      fun halted => (by cases awaiting.symm.trans halted)⟩
  | pressed x k awaiting =>
    exact ⟨fun _ => .inl rfl, fun _ _ => .inr rfl, fun halted => (by cases awaiting.symm.trans halted)⟩
  | stays halted =>
    exact ⟨fun ready => (by cases halted.symm.trans ready), fun x awaiting => (by cases halted.symm.trans awaiting),
      fun _ => halted⟩

/-- From Halted only a load that is not refused leaves the core in another run state, which is Ready. -/
theorem State.TransactsTo.of_halted {s t : State} {u : Transaction} (h : s.TransactsTo u t) (halted : s.run = .halted)
    (leaves : t.run ≠ .halted) :
    t.run = .ready ∧ (u = .reset ∨ ∃ image, u = .load image ∧ image.length ≤ 3584) := by
  cases h with
  | loaded image fits => exact ⟨rfl, .inr ⟨image, rfl, fits⟩⟩
  | reset => exact ⟨rfl, .inl rfl⟩
  | refused | ticked => exact absurd halted leaves
  | stepped keys rnd _ steps =>
    cases steps with
    | raised => exact absurd rfl leaves
    | executed i ready => cases halted.symm.trans ready
    | waits x awaiting => cases halted.symm.trans awaiting
    | pressed x k awaiting => cases halted.symm.trans awaiting
    | stays => exact absurd halted leaves

/-- Settles O49: with nothing pending the transaction is a step, which is no load. -/
theorem onlyReloadLeavesHalted : Obligations.OnlyReloadLeavesHalted := by
  intro s t halted h leaves
  rcases step_cases s with ⟨u, rest, pending, runs⟩ | ⟨-, runs⟩
  · obtain ⟨ready, reset | ⟨image, load, fits⟩⟩ :=
      (State.TransactsTo.of_runTransaction (runs.symm.trans h)).of_halted halted leaves
    · exact ⟨ready, .inl ⟨rest, reset ▸ pending⟩⟩
    · exact ⟨ready, .inr ⟨image, rest, load ▸ pending, fits⟩⟩
  · obtain ⟨-, reset | ⟨image, load, -⟩⟩ :=
      (State.TransactsTo.of_runTransaction (runs.symm.trans h)).of_halted halted leaves
    · cases reset
    · cases load

end Sys2Proof.Machine
end

section
/-! Control flow and the key skips (41_control_flow.md, 45_input.md): calls and returns, skips, the indexed jump. -/

namespace Sys2Proof.Machine

/-! ### Call and return (41_control_flow.md R121, R122) -/

theorem exec_call_of_room (nnn : Addr) {s : State} (room : s.depth ≠ 16) :
    exec (.call nnn) s = complete ((s.push (s.pc + 2)).setPc (addrOf nnn)) :=
  exec_of_no_error (if_neg room)

theorem exec_call_of_full (nnn : Addr) {s : State} (full : s.depth = 16) :
    exec (.call nnn) s = .next { s with run := .halted, result := .fatal (.stackOverflow s.pc) } :=
  exec_of_error (if_pos full)

theorem exec_ret_of_entry {s : State} {below : List Word} {a : Word} (top : s.stack = below ++ [a]) :
    exec .ret s = complete (s.dropTop.setPc a) := by
  simp [exec, execRet, top]

/-- Settles O15. -/
theorem callPushesReturnAddress : Obligations.CallPushesReturnAddress := fun nnn s =>
  ⟨fun room => ⟨_, exec_call_of_room nnn room, rfl, toNat_addrOf nnn, (s.frame_effect (.call nnn)).commit .ok⟩,
    exec_call_of_full nnn⟩

/-- Settles O16. -/
theorem returnPopsIntoPc : Obligations.ReturnPopsIntoPc := by
  intro s
  constructor
  · intro below a top
    have frame : s.Frame (s.dropTop.setPc a) { stack := true } := ((State.Frame.refl s _).dropTop rfl).setPc a
    exact ⟨_, exec_ret_of_entry top, by simp [top], rfl, frame.commit .ok⟩
  · intro empty
    have depth_eq : s.depth = 0 := congrArg List.length empty
    exact exec_of_error (if_pos depth_eq)

/-- Settles O17: the CALL pushed the entry that the RET takes off, so over the pair the stack stays too. -/
theorem returnUndoesCall : Obligations.ReturnUndoesCall := by
  intro nnn s room
  obtain ⟨t, calls, pushed, -, call_frame⟩ := (callPushesReturnAddress nnn s).1 room.ne
  obtain ⟨u, returns, popped, pc_eq, ret_frame⟩ := (returnPopsIntoPc t).1 _ _ pushed
  exact ⟨t, u, calls, returns, popped, pc_eq, { call_frame.trans ret_frame with stack := fun _ => popped }⟩

/-- Calls executed one after another go through while there is room, each one deeper. -/
theorem runInstrs_calls (targets : List Addr) {s : State} (room : s.depth + targets.length ≤ 16) :
    ∃ t, runInstrs (targets.map Instr.call) s = .next t ∧ t.depth = s.depth + targets.length ∧ t.run = s.run := by
  induction targets generalizing s with
  | nil => exact ⟨s, rfl, rfl, rfl⟩
  | cons nnn targets ih =>
    rw [List.length_cons] at room
    obtain ⟨u, calls, pushed, -, frame⟩ := (callPushesReturnAddress nnn s).1 (by omega)
    have deeper : u.depth = s.depth + 1 := by simp [State.depth, pushed]
    obtain ⟨t, rest_runs, depth_eq, run_eq⟩ := ih (s := u) (by omega)
    refine ⟨t, ?_, by rw [depth_eq, List.length_cons]; omega, run_eq.trans (frame.run rfl)⟩
    simp only [List.map_cons, runInstrs, calls, rest_runs]

/-- Settles O18. -/
theorem sixteenNestedCallsThenOverflow : Obligations.SixteenNestedCallsThenOverflow := by
  intro targets s empty few
  have depth_eq : s.depth = 0 := congrArg List.length empty
  obtain ⟨t, runs, deep, run_eq⟩ := runInstrs_calls targets (s := s) (by omega)
  rw [depth_eq, Nat.zero_add] at deep
  exact ⟨t, runs, deep, run_eq, fun sixteen nnn => exec_call_of_full nnn (deep.trans sixteen)⟩

/-! ### Skips (41_control_flow.md R126 to R128, 45_input.md R190, R191) -/

theorem exec_sneImm (x : Reg) (nn : Byte) (s : State) :
    exec (.sneImm x nn) s = complete (s.setPc (if s.readV x = nn then s.pc + 2 else s.pc + 4)) := by
  have meaning : exec (.sneImm x nn) s = complete (s.advance.skipIf (s.readV x != nn)) := rfl
  rw [meaning, State.advance_skipIf]
  by_cases equal : s.readV x = nn <;> simp [equal]

theorem exec_seReg (x y : Reg) (s : State) :
    exec (.seReg x y) s = complete (s.setPc (if s.readV x = s.readV y then s.pc + 4 else s.pc + 2)) := by
  have meaning : exec (.seReg x y) s = complete (s.advance.skipIf (s.readV x == s.readV y)) := rfl
  simp [meaning, State.advance_skipIf]

theorem exec_sneReg (x y : Reg) (s : State) :
    exec (.sneReg x y) s = complete (s.setPc (if s.readV x = s.readV y then s.pc + 2 else s.pc + 4)) := by
  have meaning : exec (.sneReg x y) s = complete (s.advance.skipIf (s.readV x != s.readV y)) := rfl
  rw [meaning, State.advance_skipIf]
  by_cases equal : s.readV x = s.readV y <;> simp [equal]

theorem exec_skp (x : Reg) (s : State) :
    exec (.skp x) s = complete (s.setPc (if s.keyDown x then s.pc + 4 else s.pc + 2)) :=
  congrArg complete (s.advance_skipIf _)

theorem exec_sknp (x : Reg) (s : State) :
    exec (.sknp x) s = complete (s.setPc (if s.keyDown x then s.pc + 2 else s.pc + 4)) := by
  have meaning : exec (.sknp x) s = complete (s.advance.skipIf (!s.keyDown x)) := rfl
  rw [meaning, State.advance_skipIf]
  cases s.keyDown x <;> rfl

/-- Settles O20. -/
theorem skipOnRegisters : Obligations.SkipOnRegisters := by
  intro x y nn s
  rw [exec_sneImm, exec_seReg, exec_sneReg]
  exact ⟨complete_setPc s _, complete_setPc s _, complete_setPc s _⟩

/-- Settles O39. -/
theorem skipOnKeys : Obligations.SkipOnKeys := by
  intro x s
  rw [exec_skp, exec_sknp]
  exact ⟨complete_setPc s _, complete_setPc s _⟩

/-! ### The indexed jump (41_control_flow.md R124) -/

/-- X of BNNN, NNN[11:8]. -/
theorem extractLsb'_high_nibble (nnn : Addr) : nnn.extractLsb' 8 4 = BitVec.ofNat 4 (nnn.toNat / 256) := by
  apply BitVec.eq_of_toNat_eq
  rw [BitVec.extractLsb'_toNat, BitVec.toNat_ofNat, Nat.shiftRight_eq_div_pow]

/-- Settles O21. -/
theorem indexedJumpAddsOffset : Obligations.IndexedJumpAddsOffset := by
  intro nnn s
  obtain ⟨t, completes, pc_eq, frame⟩ := complete_setPc s (addrOf nnn + wordOf (s.jumpOffset nnn))
  have sum : t.pc.toNat = nnn.toNat + (s.jumpOffset nnn).toNat := by rw [pc_eq, toNat_addrOf_add_wordOf]
  refine ⟨t, completes, frame, fun v0 => ?_, fun vx => ?_⟩
  · rw [sum, State.jumpOffset, v0]
    rfl
  · rw [sum, State.jumpOffset, vx, extractLsb'_high_nibble]
    rfl

/-! ### The start of a key wait (45_input.md R192) -/

/-- Settles O40. -/
theorem keyWaitStarts : Obligations.KeyWaitStarts := fun x s =>
  ⟨_, exec_of_no_error (i := .ldVxK x) rfl, rfl, rfl, rfl, rfl, (s.frame_effect (.ldVxK x)).commit .waiting⟩

end Sys2Proof.Machine
end

section
/-! Logic, arithmetic with a flag, shifts, the random byte, and what I is set to (42_register_ops.md, 47_random.md,
43_index_memory.md). -/

namespace Sys2Proof.Machine

/-! ### Bitwise logic (42_register_ops.md R143 to R145) -/

/-- A completed step that moved on to the next word and wrote a logic result, VF last under LOGIC_RESETS_VF. -/
theorem complete_advance_writeLogic (s : State) (x : Reg) (b : Byte) :
    ∃ t, complete (s.advance.writeLogic x b) = .next t ∧ t.pc = s.pc + 2 ∧
      s.Frame t { regs := logicRegs s.cfg x } ∧
      (¬(s.cfg.logicResetsVf = true ∧ x = 0xF) → t.readV x = b) ∧
      (s.cfg.logicResetsVf = true → t.readV 0xF = 0) := by
  have frame : s.Frame (s.advance.writeLogic x b) { regs := logicRegs s.cfg x } :=
    ((State.Frame.refl s _).setPc (s.pc + 2)).writeLogic rfl b
  refine ⟨(s.advance.writeLogic x b).commit .ok, rfl, by simp, frame.commit .ok, fun kept => ?_, fun toggle => ?_⟩
  · rw [State.commit_readV, State.readV_writeLogic, if_neg (fun reset => kept ⟨reset.1, reset.2.symm⟩), if_pos rfl]
  · rw [State.commit_readV, State.readV_writeLogic, if_pos ⟨toggle, rfl⟩]

/-- Settles O24: each operation on bytes is the operation on their bits. -/
theorem logicOpsBitwise : Obligations.LogicOpsBitwise := by
  rintro x y s op i (⟨rfl, rfl⟩ | ⟨rfl, rfl⟩ | ⟨rfl, rfl⟩)
  · obtain ⟨t, completes, pc_eq, frame, result, vf⟩ := complete_advance_writeLogic s x (s.readV x ||| s.readV y)
    exact ⟨t, completes, pc_eq, frame, fun kept k _ => by rw [result kept, BitVec.getLsbD_or], vf⟩
  · obtain ⟨t, completes, pc_eq, frame, result, vf⟩ := complete_advance_writeLogic s x (s.readV x &&& s.readV y)
    exact ⟨t, completes, pc_eq, frame, fun kept k _ => by rw [result kept, BitVec.getLsbD_and], vf⟩
  · obtain ⟨t, completes, pc_eq, frame, result, vf⟩ := complete_advance_writeLogic s x (s.readV x ^^^ s.readV y)
    exact ⟨t, completes, pc_eq, frame, fun kept k _ => by rw [result kept, BitVec.getLsbD_xor], vf⟩

/-! ### Results with a flag (42_register_ops.md R146 to R150) -/

/-- A completed step that moved on to the next word and wrote a result and then its flag. -/
theorem complete_advance_writeWithFlag (s : State) (x : Reg) (b f : Byte) :
    ∃ t, complete (s.advance.writeWithFlag x b f) = .next t ∧ (x ≠ 0xF → t.readV x = b) ∧ t.readV 0xF = f ∧
      t.pc = s.pc + 2 ∧ s.Frame t { regs := [x, 0xF] } := by
  have frame : s.Frame (s.advance.writeWithFlag x b f) { regs := [x, 0xF] } :=
    ((State.Frame.refl s _).setPc (s.pc + 2)).writeWithFlag (by simp) (by simp) b f
  refine ⟨(s.advance.writeWithFlag x b f).commit .ok, rfl, fun not_vf => ?_, ?_, by simp, frame.commit .ok⟩
  · rw [State.commit_readV, State.readV_writeWithFlag, if_neg not_vf.symm, if_pos rfl]
  · rw [State.commit_readV, State.readV_writeWithFlag, if_pos rfl]

theorem carryFlag_eq (a b : Byte) : carryFlag a b = if a.toNat + b.toNat > 255 then 1 else 0 := by
  simp [carryFlag, flagByte]

theorem noBorrowFlag_eq (a b : Byte) : noBorrowFlag a b = if a.toNat ≥ b.toNat then 1 else 0 := by
  simp [noBorrowFlag, flagByte]

theorem toNat_sub_byte (a b : Byte) : (a - b).toNat = (a.toNat + 256 - b.toNat) % 256 := by
  rw [BitVec.toNat_sub]
  omega

theorem toNat_shiftedOutRight (b : Byte) : (shiftedOutRight b).toNat = b.toNat % 2 := by
  have bit : b.getLsbD 0 = decide (b.toNat % 2 = 1) := by simp [BitVec.getLsbD, Nat.testBit_zero]
  rw [shiftedOutRight, flagByte, bit]
  rcases Nat.mod_two_eq_zero_or_one b.toNat with even | odd
  · simp [even]
  · simp [odd]

theorem toNat_shiftedOutLeft (b : Byte) : (shiftedOutLeft b).toNat = b.toNat / 128 := by
  have bit : b.getLsbD 7 = decide (128 ≤ b.toNat) := BitVec.msb_eq_decide b
  rw [shiftedOutLeft, flagByte, bit]
  by_cases top : 128 ≤ b.toNat
  · simp [top]
    omega
  · simp [top]
    omega

theorem State.shiftSource_eq {s : State} {x y z : Reg} (source : z = if s.cfg.shiftUsesVy then y else x) :
    s.shiftSource x y = s.readV z := by
  subst source
  exact (apply_ite s.readV _ y x).symm

/-- Settles O25. -/
theorem addSetsCarry : Obligations.AddSetsCarry := by
  intro x y s
  obtain ⟨t, completes, sum, flag, pc_eq, frame⟩ :=
    complete_advance_writeWithFlag s x (s.readV x + s.readV y) (carryFlag (s.readV x) (s.readV y))
  exact ⟨t, completes, fun not_vf => by rw [sum not_vf, BitVec.toNat_add], by rw [flag, carryFlag_eq], pc_eq, frame⟩

/-- Settles O26. -/
theorem subtractSetsNoBorrow : Obligations.SubtractSetsNoBorrow := by
  intro x y s
  obtain ⟨t, completes, difference, flag, pc_eq, frame⟩ :=
    complete_advance_writeWithFlag s x (s.readV x - s.readV y) (noBorrowFlag (s.readV x) (s.readV y))
  exact ⟨t, completes, fun not_vf => by rw [difference not_vf, toNat_sub_byte], by rw [flag, noBorrowFlag_eq], pc_eq,
    frame⟩

/-- Settles O27. -/
theorem reverseSubtractSetsNoBorrow : Obligations.ReverseSubtractSetsNoBorrow := by
  intro x y s
  obtain ⟨t, completes, difference, flag, pc_eq, frame⟩ :=
    complete_advance_writeWithFlag s x (s.readV y - s.readV x) (noBorrowFlag (s.readV y) (s.readV x))
  exact ⟨t, completes, fun not_vf => by rw [difference not_vf, toNat_sub_byte], by rw [flag, noBorrowFlag_eq], pc_eq,
    frame⟩

/-- Settles O28: a shift by one halves, or doubles mod 256, and shifts out the lowest or the highest bit. -/
theorem shiftsByOne : Obligations.ShiftsByOne := by
  intro x y z s source
  constructor
  · obtain ⟨t, completes, result, flag, pc_eq, frame⟩ :=
      complete_advance_writeWithFlag s x (s.readV z >>> 1) (shiftedOutRight (s.readV z))
    rw [← State.shiftSource_eq source] at completes
    exact ⟨t, completes, fun not_vf => by rw [result not_vf, BitVec.toNat_ushiftRight, Nat.shiftRight_one],
      by rw [flag, toNat_shiftedOutRight], pc_eq, frame⟩
  · obtain ⟨t, completes, result, flag, pc_eq, frame⟩ :=
      complete_advance_writeWithFlag s x (s.readV z <<< 1) (shiftedOutLeft (s.readV z))
    rw [← State.shiftSource_eq source] at completes
    exact ⟨t, completes, fun not_vf => by rw [result not_vf, BitVec.toNat_shiftLeft, Nat.shiftLeft_eq],
      by rw [flag, toNat_shiftedOutLeft], pc_eq, frame⟩

/-! ### The random byte (47_random.md R210) -/

/-- Settles O43. -/
theorem randomMasksByte : Obligations.RandomMasksByte := by
  intro x nn s
  obtain ⟨t, completes, result, pc_eq, frame⟩ := complete_advance_writeV s x (s.rnd &&& nn)
  exact ⟨t, completes, fun k _ => by rw [result, BitVec.getLsbD_and], pc_eq, frame⟩

/-! ### What I is set to (43_index_memory.md R161, R162) -/

theorem toNat_glyphAddr (b : Byte) : (glyphAddr b).toNat = 5 * (b.toNat % 16) := by
  rw [glyphAddr, BitVec.toNat_ofNat, Nat.zero_add, Nat.mod_eq_of_lt (by omega)]

/-- Settles O30. -/
theorem indexAddAndGlyph : Obligations.IndexAddAndGlyph := by
  intro x s
  constructor
  · obtain ⟨t, completes, i_eq, pc_eq, frame⟩ := complete_advance_setI s (s.i + wordOf (s.readV x))
    exact ⟨t, completes, by rw [i_eq, BitVec.toNat_add, toNat_wordOf], pc_eq, frame⟩
  · obtain ⟨t, completes, i_eq, pc_eq, frame⟩ := complete_advance_setI s (glyphAddr (s.readV x))
    exact ⟨t, completes, by rw [i_eq, toNat_glyphAddr], pc_eq, frame⟩

end Sys2Proof.Machine
end

section
/-! Memory through I (43_index_memory.md R164 to R166, 20_memory.md): the stores, the load, the range error, and the
fetch of what was stored. -/

namespace Sys2Proof.Machine

/-! ### One byte stored (20_memory.md R59, R61) -/

theorem State.readAddr_writeByte {s : State} (wf : Memory.wf (unlistedByte s.cfg.font) s.mem) (a k : Nat) (b : Byte)
    (q : Nat) : (s.writeByte a k b).readAddr q = if q = byteAddr s.cfg a k then b else s.readAddr q :=
  s.readAddr_writeAddr _ b q wf

theorem State.wf_mem_writeByte {s : State} (wf : Memory.wf (unlistedByte s.cfg.font) s.mem) {a n k : Nat}
    (range : rangeError s.cfg a n = none) (hk : k < n) (b : Byte) :
    Memory.wf (unlistedByte s.cfg.font) (s.writeByte a k b).mem :=
  s.wf_writeAddr _ b (byteAddr_lt s.cfg a n k range hk) wf

/-! ### The decimal digits (43_index_memory.md R164) -/

theorem toNat_hundreds (b : Byte) : (hundreds b).toNat = b.toNat / 100 := Nat.mod_eq_of_lt (by omega)
theorem toNat_tens (b : Byte) : (tens b).toNat = b.toNat / 10 % 10 := Nat.mod_eq_of_lt (by omega)
theorem toNat_ones (b : Byte) : (ones b).toNat = b.toNat % 10 := Nat.mod_eq_of_lt (by omega)

/-- Three bytes stored in order at three addresses of one access are all there to read. -/
theorem State.readAddr_three_writes {s : State} (wf : Memory.wf (unlistedByte s.cfg.font) s.mem) {a : Nat}
    (range : rangeError s.cfg a 3 = none) (b c d : Byte) :
    let t := ((s.writeByte a 0 b).writeByte a 1 c).writeByte a 2 d
    t.readAddr (byteAddr s.cfg a 0) = b ∧ t.readAddr (byteAddr s.cfg a 1) = c ∧
      t.readAddr (byteAddr s.cfg a 2) = d := by
  have wf₁ := State.wf_mem_writeByte wf range (k := 0) (by decide) b
  have wf₂ := State.wf_mem_writeByte (s := s.writeByte a 0 b) wf₁ range (k := 1) (by decide) c
  have distinct {j k : Nat} (hj : j < 3) (hk : k < 3) (ne : j ≠ k) : byteAddr s.cfg a j ≠ byteAddr s.cfg a k :=
    fun e => ne (byteAddr_inj s.cfg a j k (by omega) (by omega) e)
  have read (q : Nat) : (((s.writeByte a 0 b).writeByte a 1 c).writeByte a 2 d).readAddr q =
      if q = byteAddr s.cfg a 2 then d else if q = byteAddr s.cfg a 1 then c else
        if q = byteAddr s.cfg a 0 then b else s.readAddr q := by
    rw [State.readAddr_writeByte wf₂, State.readAddr_writeByte wf₁, State.readAddr_writeByte wf]
    rfl
  intro t
  refine ⟨?_, ?_, (read _).trans (if_pos rfl)⟩
  · rw [read, if_neg (distinct (by decide) (by decide) (by decide)),
      if_neg (distinct (by decide) (by decide) (by decide)), if_pos rfl]
  · rw [read, if_neg (distinct (by decide) (by decide) (by decide)), if_pos rfl]

/-- Settles O31. -/
theorem bcdStoresDigits : Obligations.BcdStoresDigits := by
  intro x s wf in_range
  have range := in_range.rangeError_eq_none
  have none_met : s.instrError (.ldB x) = none := Option.map_eq_none_iff.2 range
  obtain ⟨first, second, third⟩ := State.readAddr_three_writes (s := s.advance) wf.memory range
    (hundreds (s.readV x)) (tens (s.readV x)) (ones (s.readV x))
  exact ⟨_, exec_of_no_error none_met, (congrArg BitVec.toNat first).trans (toNat_hundreds _),
    (congrArg BitVec.toNat second).trans (toNat_tens _), (congrArg BitVec.toNat third).trans (toNat_ones _), rfl,
    (s.frame_effect (.ldB x)).commit .ok⟩

/-! ### Bulk store and load (43_index_memory.md R165, R166) -/

theorem State.toNat_bumpI_i (s : State) (n : Nat) :
    (s.bumpI n).i.toNat = if s.cfg.loadstoreIncrementsI then (s.i.toNat + n) % 2 ^ 16 else s.i.toNat := by
  rw [State.bumpI_i]
  split <;> simp

/-- Settles O32. -/
theorem bulkStoreWritesRegisters : Obligations.BulkStoreWritesRegisters := by
  intro x s wf in_range
  have range := in_range.rangeError_eq_none
  have none_met : s.instrError (.ldStore x) = none := Option.map_eq_none_iff.2 range
  obtain ⟨stored, -⟩ := s.advance.readAddr_storeRegs s.i.toNat (x.toNat + 1) (by omega) range wf.memory
  refine ⟨_, exec_of_no_error none_met, fun k hk => ?_, ?_, ?_, (s.frame_effect (.ldStore x)).mark_index.commit .ok⟩
  · simpa [State.effect] using stored k.toNat (by omega)
  · simp only [State.effect, State.commit_i, State.toNat_bumpI_i, State.storeRegs_i, State.storeRegs_cfg]
    rfl
  · simp [State.effect]

/-- Settles O33. -/
theorem bulkLoadReadsRegisters : Obligations.BulkLoadReadsRegisters := by
  intro x s in_range
  have none_met : s.instrError (.ldLoad x) = none := Option.map_eq_none_iff.2 in_range.rangeError_eq_none
  have loaded := s.advance.readV_loadRegs s.i.toNat (x.toNat + 1) (by omega)
  refine ⟨_, exec_of_no_error none_met, fun k hk => ?_, ?_, ?_, (s.frame_effect (.ldLoad x)).mark_index.commit .ok⟩
  · exact (loaded k).trans (if_pos (by omega))
  · simp only [State.effect, State.commit_i, State.toNat_bumpI_i, State.loadRegs_i, State.loadRegs_cfg]
    rfl
  · simp [State.effect]

/-! ### The range error (20_memory.md R53, R54) -/

/-- Settles O34: the check of each form is of the bytes it accesses, and it is the form's one error. -/
theorem indexAccessOutOfRange : Obligations.IndexAccessOutOfRange := by
  intro s i n check form outside
  have range (nonempty : 1 ≤ n) : rangeError s.cfg s.i.toNat n = some (max s.i.toNat 0x1000) :=
    (rangeError_eq_some ..).2 ⟨check, nonempty, outside, rfl⟩
  have met : s.instrError i = some (.memoryAccessOutOfRange s.pc (max s.i.toNat 0x1000)) := by
    rcases form with ⟨x, rfl, rfl⟩ | ⟨x, rfl, rfl⟩ | ⟨x, rfl, rfl⟩ | ⟨x, y, rows, rfl, rfl, nonempty⟩
    · simp only [State.instrError, range (by decide), Option.map_some]
    · simp only [State.instrError, range (Nat.le_add_left ..), Option.map_some]
    · simp only [State.instrError, range (Nat.le_add_left ..), Option.map_some]
    · simp only [State.instrError, range nonempty, Option.map_some]
  exact exec_of_error met

/-! ### No fence between a store and the fetch (20_memory.md R63) -/

/-- Settles O35: the two bytes that FX55 stores at I are the two at the pc it moves on to. -/
theorem nextFetchSeesStore : Obligations.NextFetchSeesStore := by
  intro s wf check room i_eq
  have i_toNat : s.i.toNat = s.pc.toNat + 2 := by rw [i_eq]; bv_omega
  have in_range : InRange s.cfg s.i.toNat ((1 : Reg).toNat + 1) := fun _ _ => by simp; omega
  obtain ⟨t, stores, stored, -, pc_eq, -⟩ := bulkStoreWritesRegisters 1 s wf in_range
  have cfg_eq : t.cfg = s.cfg := (noInstructionTouchesHostFields _ s t stores).cfg
  have byte (k : Reg) (hk : k.toNat ≤ 1) : t.readByte t.pc.toNat k.toNat = s.readV k := by
    rw [State.readByte, cfg_eq, pc_eq, ← i_eq]
    exact stored k hk
  refine ⟨t, stores, pc_eq, ?_⟩
  have high := byte 0 (by decide)
  have low := byte 1 (by decide)
  exact congrArg₂ wordOfBytes high low

end Sys2Proof.Machine
end

section
/-! Drawing (44_display.md R181, R182): once, and the same sprite a second time. -/

namespace Sys2Proof.Machine

theorem flagByte_eq_one (f : Bool) : flagByte f = 1 ↔ f = true := by cases f <;> decide

theorem flagByte_zero_or_one (f : Bool) : flagByte f = 0 ∨ flagByte f = 1 := by cases f <;> decide

/-- Settles O37: what the rows of a sprite draw, one over the other, is what the whole sprite covers. -/
theorem drawXorsSprite : Obligations.DrawXorsSprite := by
  intro x y n s in_range
  have none_met : s.instrError (.drw x y n) = none := Option.map_eq_none_iff.2 in_range.rangeError_eq_none
  obtain ⟨pixels, collides⟩ := s.drawRows_pixel ((s.readV x).toNat % 64) ((s.readV y).toNat % 32) n.toNat
    (Nat.mod_lt _ (by decide))
  let t := (s.effect (.drw x y n)).commit .ok
  have vf : t.readV 0xF = flagByte (s.drawing x y n).2 := State.readV_writeV_self _ regF _
  exact ⟨t, exec_of_no_error none_met, pixels, by rw [vf, flagByte_eq_one]; exact collides,
    vf ▸ flagByte_zero_or_one _, rfl, (s.frame_effect (.drw x y n)).commit .ok⟩

/-- What a sprite covers depends on I, on the bytes of memory and on the configuration. -/
theorem State.spriteCovers_congr {s t : State} (i_eq : t.i = s.i) (mem_eq : ∀ a, t.readAddr a = s.readAddr a)
    (cfg_eq : t.cfg = s.cfg) (x0 y0 n c r : Nat) : t.spriteCovers x0 y0 n c r = s.spriteCovers x0 y0 n c r := by
  unfold State.spriteCovers State.readByte
  rw [i_eq, cfg_eq, mem_eq]

/-- Settles O38: the first draw leaves what the sprite is and where it goes, so the second flips the same pixels back,
and the set pixels under it are those that were clear at first. -/
theorem drawTwiceRestores : Obligations.DrawTwiceRestores := by
  intro x y n s t in_range draws x_kept y_kept
  obtain ⟨t', draws', once, -, -, -, frame⟩ := drawXorsSprite x y n s in_range
  cases draws'.symm.trans draws
  have cfg_eq : t.cfg = s.cfg := (noInstructionTouchesHostFields _ s t draws).cfg
  have i_eq : t.i = s.i := frame.index rfl
  have in_range_again : InRange t.cfg t.i.toNat n.toNat := by rwa [cfg_eq, i_eq]
  obtain ⟨u, draws_again, twice, collides, -⟩ := drawXorsSprite x y n t in_range_again
  have same_sprite := State.spriteCovers_congr i_eq (fun a => frame.mem a List.not_mem_nil) cfg_eq
  rw [x_kept, y_kept] at twice collides
  refine ⟨u, draws_again, Framebuffer.ext _ _ fun c hc r hr => ?_, collides.trans ?_⟩
  · have restored := twice c hc r hr
    rw [same_sprite, once c hc r hr, Bool.xor_assoc, Bool.xor_self, Bool.xor_false] at restored
    exact restored
  · have flipped {c r : Nat} (hc : c < 64) (hr : r < 32)
        (covers : s.spriteCovers ((s.readV x).toNat % 64) ((s.readV y).toNat % 32) n.toNat c r = true) :
        t.pixel c r = !s.pixel c r := by rw [once c hc r hr, covers, Bool.xor_true]
    constructor
    · rintro ⟨c, r, hc, hr, set, covers⟩
      rw [same_sprite] at covers
      rw [flipped hc hr covers, Bool.not_eq_true'] at set
      exact ⟨c, r, hc, hr, set, covers⟩
    · rintro ⟨c, r, hc, hr, clear, covers⟩
      exact ⟨c, r, hc, hr, by rw [flipped hc hr covers, clear]; rfl, by rwa [same_sprite]⟩

end Sys2Proof.Machine
end

section
/-! The loads of the host, with a given image and with the kept one (70_reset_and_hazards.md R250 to R253). -/

namespace Sys2Proof.Machine

/-! ### What a load leaves -/

/-- The values of 10_state.md R44 after a load, whatever it answers. -/
theorem State.loaded_values (s : State) (image : List Byte) (answer : Result) :
    let t : State := { s.loaded image with result := answer }
    (∀ x, t.readV x = 0) ∧ t.i = 0 ∧ t.pc = 0x200 ∧ t.dt = 0 ∧ t.st = 0 ∧
      (∀ c < 64, ∀ r < 32, t.pixel c r = false) :=
  ⟨fun x => Vector.getElem_replicate x.isLt, rfl, rfl, rfl, rfl, fun c _ r _ => Framebuffer.pixel_clear c r⟩

theorem unlistedByte_of_lt (font : Vector Byte 80) {a : Nat} (h : a < 80) : unlistedByte font a = font[a] := dif_pos h

theorem unlistedByte_of_ge (font : Vector Byte 80) {a : Nat} (h : 80 ≤ a) : unlistedByte font a = 0 :=
  dif_neg (Nat.not_lt.2 h)

/-- Memory after a load: the font, zeros, the image from 0x200, zeros (20_memory.md R57). -/
theorem State.readAddr_loaded (s : State) (image : List Byte) (a : Nat) :
    (s.loaded image).readAddr a =
      if h : a < 0x50 then s.cfg.font[a]'h else if a < 0x200 then 0 else image.getD (a - 0x200) 0 := by
  have read := Memory.read_load (unlistedByte s.cfg.font) 0x200 image a
  refine read.trans ?_
  rcases Nat.lt_or_ge a 0x50 with font | above_font
  · rw [dif_neg (by omega), dif_pos font, unlistedByte_of_lt s.cfg.font font]
  rw [dif_neg (by omega : ¬a < 0x50)]
  rcases Nat.lt_or_ge a 0x200 with below | above
  · rw [dif_neg (by omega), if_pos below, unlistedByte_of_ge s.cfg.font above_font]
  rw [if_neg (by omega)]
  by_cases inside : a - 0x200 < image.length
  · rw [dif_pos ⟨above, inside⟩, List.getD_eq_getElem _ _ inside]
  · rw [dif_neg (fun h => inside h.2), unlistedByte_of_ge s.cfg.font above_font,
      List.getD_eq_default _ _ (by omega)]

/-! ### The statements -/

/-- Settles O51: both transactions are loads, and the reset state is what a load of no image leaves of itself. -/
theorem resetValues : Obligations.ResetValues := by
  intro s t image fits reached
  rcases reached with loads | resets | rfl
  · cases (runLoad_of_fits fits s).symm.trans loads
    exact s.loaded_values image .ok
  · cases resets
    exact s.loaded_values s.image .nothing
  · exact State.reset.loaded_values [] .ok

/-- Settles O52. -/
theorem initializeLoadsOrRefusesImage : Obligations.InitializeLoadsOrRefusesImage := fun s image =>
  ⟨fun fits => ⟨_, runLoad_of_fits fits s, rfl, rfl, rfl, rfl, rfl, ⟨rfl, rfl, rfl, rfl, rfl⟩,
      fun a _ => s.readAddr_loaded image a⟩,
    fun too_large => runLoad_of_too_large too_large s⟩

/-- Settles O53: a load writes the same record whatever state it finds. -/
theorem resetIsInitializeWithKeptImage : Obligations.ResetIsInitializeWithKeptImage := fun s fits =>
  ⟨{ s.loaded s.image with result := .nothing }, rfl, runLoad_of_fits fits s, runLoad_of_fits fits _⟩

/-- After a load of no bytes both bytes at 0x200 are zero, under either address policy. -/
theorem State.fetchWord_loaded_nil (s : State) : (s.loaded []).fetchWord = 0x0000 := by
  have zero {k : Nat} (hk : k < 2) : (s.loaded []).readByte 0x200 k = 0 := by
    have address : byteAddr s.cfg 0x200 k = 0x200 + k := by
      unfold byteAddr
      split
      · rfl
      · exact Nat.mod_eq_of_lt (by simp only [Config.memSize]; omega)
    have read := s.readAddr_loaded [] (0x200 + k)
    rw [dif_neg (by omega), if_neg (by omega)] at read
    exact (congrArg (s.loaded []).readAddr address).trans read
  exact congrArg₂ wordOfBytes (zero (by decide)) (zero (by decide))

/-- Settles O54: the word 0x0000 is in no row. -/
theorem emptyImageFirstStepInvalid : Obligations.EmptyImageFirstStepInvalid := by
  intro s t keys rnd loads
  cases (runLoad_of_fits (Nat.zero_le _) s).symm.trans loads
  have word_eq := s.fetchWord_loaded_nil
  have no_row : ∀ r ∈ opcodeTable, r.hits (s.loaded []).fetchWord = false := by rw [word_eq]; decide
  have in_range : InRange s.cfg (0x200 : Word).toNat 2 := fun _ _ => by decide
  have raises := invalidWordRaisesInvalidOpcode
    (({ s.loaded [] with result := .ok } : State).withInputs keys rnd) rfl in_range no_row
  exact ⟨_, raises, rfl, congrArg (fun w => Result.fatal (.invalidOpcode 0x200 w)) word_eq, rfl⟩

/-- Settles O55: a glyph lies in the font, below 0x050, which no image reaches. -/
theorem glyphAddressPointsAtFont : Obligations.GlyphAddressPointsAtFont := by
  intro s t u image x fits loads b points k hk
  cases (runLoad_of_fits fits s).symm.trans loads
  cases points
  have i_toNat : (glyphAddr (State.readV (State.writeV { s.loaded image with result := .ok } x b) x)).toNat =
      5 * (b.toNat % 16) := by rw [State.readV_writeV_self, toNat_glyphAddr]
  have read := s.readAddr_loaded image (5 * (b.toNat % 16) + k)
  rw [dif_pos (by omega)] at read
  exact (congrArg (fun i => (s.loaded image).readAddr (i + k)) i_toNat).trans read

end Sys2Proof.Machine
end
